-- ==== Sys2Proof/Word.lean ====
section
/-!
DEFINITION. The word types of the machine (00_scope.md R7, 10_state.md R20, R23, R31).
-/

namespace Sys2Proof

/-- A byte, 8 bits (R7). -/
abbrev Byte := BitVec 8

/-- A general register, the instruction pointer, or a linear address: 64 bits (R23, R24, R31). In 32-bit
mode the low 32 bits are used. -/
abbrev Addr := BitVec 64

/-- The low 128 bits of a vector register (R21). -/
abbrev Xmm := BitVec 128

/-- A whole vector register, `VLMAX` = 256 bits (R20, D1). -/
abbrev Ymm := BitVec 256

/-- A register number of four bits: one extension bit above three `ModRM` or `SIB` bits (R67). -/
abbrev RegNum := BitVec 4

end Sys2Proof
end

