-- ==== Sys2Proof/Machine/Lanes.lean ====
section
/-!
DEFINITION. The lane functions: packed sign extension and its six instances (40_pmovsx_legacy_sse.md section 2,
R98, R101 to R106). Sign extension is two's complement (R8, D27), which is `BitVec.signExtend`.
-/

namespace Sys2Proof.Machine

/-- Element `i` of width `n`: bits `n*i + n-1 : n*i` (R98). -/
def element (n i : Nat) {w : Nat} (v : BitVec w) : BitVec n := v.extractLsb' (n * i) n

/-- `PSE(n, m, k, S)` in `w` bits: element `i` of width `m` is the sign extension of element `i` of width `n`
of the source, for `i` below `k`. -/
def pse (n m : Nat) {a : Nat} (w : Nat) (s : BitVec a) : Nat → BitVec w
  | 0 => 0#w
  | k + 1 => pse n m w s k ||| ((element n k s).signExtend m).setWidth w <<< (m * k)

/-- `Packed_Sign_Extend_BYTE_to_WORD` (R101). -/
def packedSignExtendByteToWord (s : BitVec 64) : Xmm := pse 8 16 128 s 8

/-- `Packed_Sign_Extend_BYTE_to_DWORD` (R102). -/
def packedSignExtendByteToDword (s : BitVec 32) : Xmm := pse 8 32 128 s 4

/-- `Packed_Sign_Extend_BYTE_to_QWORD` (R103). -/
def packedSignExtendByteToQword (s : BitVec 16) : Xmm := pse 8 64 128 s 2

/-- `Packed_Sign_Extend_WORD_to_DWORD` (R104). -/
def packedSignExtendWordToDword (s : BitVec 64) : Xmm := pse 16 32 128 s 4

/-- `Packed_Sign_Extend_WORD_to_QWORD` (R105). -/
def packedSignExtendWordToQword (s : BitVec 32) : Xmm := pse 16 64 128 s 2

/-- `Packed_Sign_Extend_DWORD_to_QWORD` (R106). -/
def packedSignExtendDwordToQword (s : BitVec 64) : Xmm := pse 32 64 128 s 2

end Sys2Proof.Machine
end

