-- ==== Sys2Proof/Config.lean ====
section
/-!
DEFINITION. What is fixed for the machine, and the values the spec leaves open. An `opaque` constant has no
body: nothing can be proved of its value, so a statement holds whatever the value is.
-/

namespace Sys2Proof

/-- The architecture's limit on an instruction's length in bytes (R60, R78); no instruction the decoder gives
is longer. -/
def Config.maxInstrLen : Nat := 15

/-- FREE VALUE (log 14; 93_implementation_defined.md U8, R139): for an operand of `n` bytes at linear address
`lin` to which both `#PF` and `#AC` apply, whether the alignment check is the one reported. -/
opaque Config.acBeforePf (lin : Addr) (n : Nat) : Bool

/-- FREE VALUE (log 13; R136): for an operand of `n` bytes at linear address `lin` of which several bytes lie
in faulting pages, which of those bytes is the one reported. -/
opaque Config.faultingByte (lin : Addr) (n : Nat) : Nat

end Sys2Proof
end

