-- ==== Sys2Proof/Syntax.lean ====
section
/-!
DEFINITION. The instructions as data: one constructor of `Instr` for each row of spec/opcode_table.json
(30_encoding.md R69, R84), with the operand forms of R71 to R75 and the prefixes of R62. An instruction keeps
everything of its bytes that its behaviour depends on: its length follows from it (R78), and so do the `#UD`
conditions on its bytes (R130, R132).
-/

namespace Sys2Proof

/-- The two operating modes in which the forms are decoded (R29 `Env.mode`, D20). -/
inductive Mode where
  | mode64
  | mode32
  deriving DecidableEq, Repr

/-- The six operations (R68). -/
inductive Op where
  | bw
  | bd
  | bq
  | wd
  | wq
  | dq
  deriving DecidableEq, Repr

/-- The three encodings (R84). -/
inductive Enc where
  | legacy
  | vex128
  | vex256
  deriving DecidableEq, Repr

/-- The six segment registers a segment-override prefix can name (R62). -/
inductive SegReg where
  | es
  | cs
  | ss
  | ds
  | fs
  | gs
  deriving DecidableEq, Repr

/-- The prefixes of the first group: LOCK (F0H), F2H and F3H (R62). -/
inductive Group1 where
  | lock
  | repne
  | rep
  deriving DecidableEq, Repr

/-- What became of a REX byte of the legacy format (R61): none, one followed by another prefix byte and so
ignored, or one immediately before `0FH`. -/
inductive RexUse where
  | absent
  | ignored
  | effective
  deriving DecidableEq, Repr

/-- The prefixes of a legacy form beside its mandatory `66H` (R60 to R63, R132). -/
structure LegacyPrefixes where
  /-- A LOCK prefix, which makes the form raise `#UD` (R132). -/
  lock : Bool
  /-- A segment override (R74). -/
  seg : Option SegReg
  /-- The address-size prefix `67H` (R75). -/
  addrSize : Bool
  /-- The REX byte (R61, R63). -/
  rex : RexUse
  deriving DecidableEq, Repr

/-- The prefixes of a VEX form. `group1`, `opSize` and `rex` each make it raise `#UD` (R132). -/
structure VexPrefixes where
  /-- LOCK, F2H or F3H. -/
  group1 : Option Group1
  /-- A segment override (R74). -/
  seg : Option SegReg
  /-- The prefix `66H`. -/
  opSize : Bool
  /-- The address-size prefix `67H` (R75). -/
  addrSize : Bool
  /-- A REX byte somewhere before `C4H`. -/
  rex : Bool
  deriving DecidableEq, Repr

/-- The displacement of 32-bit and 64-bit addressing: `mod` = 00b, 01b or 10b (R71). -/
inductive Disp where
  | none
  | disp8 (d : BitVec 8)
  | disp32 (d : BitVec 32)
  deriving DecidableEq, Repr

/-- The displacement of 16-bit addressing: `mod` = 00b, 01b or 10b (R75). -/
inductive Disp16 where
  | none
  | disp8 (d : BitVec 8)
  | disp16 (d : BitVec 16)
  deriving DecidableEq, Repr

/-- The register part of a 16-bit address, in the order of R75's table (`r/m` 000b to 111b). -/
inductive Base16 where
  | bxSi
  | bxDi
  | bpSi
  | bpDi
  | si
  | di
  | bp
  | bx
  deriving DecidableEq, Repr

/-- A memory operand as `ModRM`, `SIB` and displacement name it (R71, R72, R73, R75). -/
inductive MemOperand where
  /-- A base register (`r/m` not 100b), R71. -/
  | base (b : RegNum) (d : Disp)
  /-- `SIB` with a base register; index number 4 stands for no index, R72. -/
  | sib (scale : BitVec 2) (index b : RegNum) (d : Disp)
  /-- `SIB` with `mod` = 00b and base 101b: no base register, R72. -/
  | sibNoBase (scale : BitVec 2) (index : RegNum) (d : BitVec 32)
  /-- `mod` = 00b, `r/m` = 101b: RIP-relative in 64-bit mode (R73), absolute in 32-bit mode (R71). -/
  | disp32 (d : BitVec 32)
  /-- 16-bit addressing with registers, R75. -/
  | base16 (b : Base16) (d : Disp16)
  /-- 16-bit addressing, `mod` = 00b, `r/m` = 110b, R75. -/
  | abs16 (d : BitVec 16)
  deriving DecidableEq, Repr

/-- The source operand, `ModRM:r/m` (R67, R84). -/
inductive Source where
  | reg (j : RegNum)
  | mem (m : MemOperand)
  deriving DecidableEq, Repr

/-- The eighteen forms, in the order of the opcode table (R69). `vvvv` is the stored field of the VEX prefix
(R64), which must be 1111b (R130). -/
inductive Instr where
  | pmovsxbw (p : LegacyPrefixes) (dst : RegNum) (src : Source)
  | pmovsxbd (p : LegacyPrefixes) (dst : RegNum) (src : Source)
  | pmovsxbq (p : LegacyPrefixes) (dst : RegNum) (src : Source)
  | pmovsxwd (p : LegacyPrefixes) (dst : RegNum) (src : Source)
  | pmovsxwq (p : LegacyPrefixes) (dst : RegNum) (src : Source)
  | pmovsxdq (p : LegacyPrefixes) (dst : RegNum) (src : Source)
  | vpmovsxbw128 (p : VexPrefixes) (vvvv : BitVec 4) (dst : RegNum) (src : Source)
  | vpmovsxbd128 (p : VexPrefixes) (vvvv : BitVec 4) (dst : RegNum) (src : Source)
  | vpmovsxbq128 (p : VexPrefixes) (vvvv : BitVec 4) (dst : RegNum) (src : Source)
  | vpmovsxwd128 (p : VexPrefixes) (vvvv : BitVec 4) (dst : RegNum) (src : Source)
  | vpmovsxwq128 (p : VexPrefixes) (vvvv : BitVec 4) (dst : RegNum) (src : Source)
  | vpmovsxdq128 (p : VexPrefixes) (vvvv : BitVec 4) (dst : RegNum) (src : Source)
  | vpmovsxbw256 (p : VexPrefixes) (vvvv : BitVec 4) (dst : RegNum) (src : Source)
  | vpmovsxbd256 (p : VexPrefixes) (vvvv : BitVec 4) (dst : RegNum) (src : Source)
  | vpmovsxbq256 (p : VexPrefixes) (vvvv : BitVec 4) (dst : RegNum) (src : Source)
  | vpmovsxwd256 (p : VexPrefixes) (vvvv : BitVec 4) (dst : RegNum) (src : Source)
  | vpmovsxwq256 (p : VexPrefixes) (vvvv : BitVec 4) (dst : RegNum) (src : Source)
  | vpmovsxdq256 (p : VexPrefixes) (vvvv : BitVec 4) (dst : RegNum) (src : Source)
  deriving DecidableEq, Repr

/-- The legacy form of an operation (R68, R69). -/
def Instr.legacy (o : Op) (p : LegacyPrefixes) (dst : RegNum) (src : Source) : Instr :=
  match o with
  | .bw => .pmovsxbw p dst src
  | .bd => .pmovsxbd p dst src
  | .bq => .pmovsxbq p dst src
  | .wd => .pmovsxwd p dst src
  | .wq => .pmovsxwq p dst src
  | .dq => .pmovsxdq p dst src

/-- The VEX.128 form of an operation (R68, R69). -/
def Instr.vex128 (o : Op) (p : VexPrefixes) (vvvv : BitVec 4) (dst : RegNum) (src : Source) : Instr :=
  match o with
  | .bw => .vpmovsxbw128 p vvvv dst src
  | .bd => .vpmovsxbd128 p vvvv dst src
  | .bq => .vpmovsxbq128 p vvvv dst src
  | .wd => .vpmovsxwd128 p vvvv dst src
  | .wq => .vpmovsxwq128 p vvvv dst src
  | .dq => .vpmovsxdq128 p vvvv dst src

/-- The VEX.256 form of an operation (R65, R68, R69). -/
def Instr.vex256 (o : Op) (p : VexPrefixes) (vvvv : BitVec 4) (dst : RegNum) (src : Source) : Instr :=
  match o with
  | .bw => .vpmovsxbw256 p vvvv dst src
  | .bd => .vpmovsxbd256 p vvvv dst src
  | .bq => .vpmovsxbq256 p vvvv dst src
  | .wd => .vpmovsxwd256 p vvvv dst src
  | .wq => .vpmovsxwq256 p vvvv dst src
  | .dq => .vpmovsxdq256 p vvvv dst src

/-- What an instruction is made of: its operation, and the fields of its format. Every function of an
instruction's bytes is written over this view, once for each format. -/
inductive View where
  | legacy (o : Op) (p : LegacyPrefixes) (dst : RegNum) (src : Source)
  | vex (wide : Bool) (o : Op) (p : VexPrefixes) (vvvv : BitVec 4) (dst : RegNum) (src : Source)
  deriving DecidableEq, Repr

/-- The view of an instruction; `wide` is `VEX.L` (R65). -/
def Instr.view : Instr → View
  | .pmovsxbw p dst src => .legacy .bw p dst src
  | .pmovsxbd p dst src => .legacy .bd p dst src
  | .pmovsxbq p dst src => .legacy .bq p dst src
  | .pmovsxwd p dst src => .legacy .wd p dst src
  | .pmovsxwq p dst src => .legacy .wq p dst src
  | .pmovsxdq p dst src => .legacy .dq p dst src
  | .vpmovsxbw128 p v dst src => .vex false .bw p v dst src
  | .vpmovsxbd128 p v dst src => .vex false .bd p v dst src
  | .vpmovsxbq128 p v dst src => .vex false .bq p v dst src
  | .vpmovsxwd128 p v dst src => .vex false .wd p v dst src
  | .vpmovsxwq128 p v dst src => .vex false .wq p v dst src
  | .vpmovsxdq128 p v dst src => .vex false .dq p v dst src
  | .vpmovsxbw256 p v dst src => .vex true .bw p v dst src
  | .vpmovsxbd256 p v dst src => .vex true .bd p v dst src
  | .vpmovsxbq256 p v dst src => .vex true .bq p v dst src
  | .vpmovsxwd256 p v dst src => .vex true .wd p v dst src
  | .vpmovsxwq256 p v dst src => .vex true .wq p v dst src
  | .vpmovsxdq256 p v dst src => .vex true .dq p v dst src

/-- The instruction a view describes. -/
def View.instr : View → Instr
  | .legacy o p dst src => .legacy o p dst src
  | .vex false o p v dst src => .vex128 o p v dst src
  | .vex true o p v dst src => .vex256 o p v dst src

/-- The destination register's number (R67). -/
def Instr.dst (i : Instr) : RegNum :=
  match i.view with
  | .legacy _ _ dst _ => dst
  | .vex _ _ _ _ dst _ => dst

/-- The source operand (R67). -/
def Instr.src (i : Instr) : Source :=
  match i.view with
  | .legacy _ _ _ src => src
  | .vex _ _ _ _ _ src => src

/-- The operation (R84). -/
def Instr.op (i : Instr) : Op :=
  match i.view with
  | .legacy o _ _ _ => o
  | .vex _ o _ _ _ _ => o

/-- The encoding (R84). -/
def Instr.enc (i : Instr) : Enc :=
  match i.view with
  | .legacy _ _ _ _ => .legacy
  | .vex false _ _ _ _ _ => .vex128
  | .vex true _ _ _ _ _ => .vex256

end Sys2Proof
end

