-- ==== Sys2Proof/WellFormed.lean ====
section
/-!
DEFINITION. Which instructions the encodings of 30_encoding.md can write, in each operating mode: the register
numbers a mode's bytes can name (R20, R63, R64, R67), the addressing forms of an address size (R71, R72, R75)
and the prefixes a mode has (R61, R77).
-/

namespace Sys2Proof

/-- The address is formed by the 16-bit table: `67H` in 32-bit mode (R75). -/
def usesTable16 (m : Mode) (addrSize : Bool) : Bool :=
  match m with
  | .mode64 => false
  | .mode32 => addrSize

/-- A register number that needs no extension bit (R67). -/
def RegNum.low (r : RegNum) : Bool := !r.getLsbD 3

/-- Is there a displacement? -/
def Disp.isNone : Disp → Bool
  | .none => true
  | _ => false

/-- Is there a displacement? -/
def Disp16.isNone : Disp16 → Bool
  | .none => true
  | _ => false

/-- The three bits of a register number that stand in `ModRM` or `SIB` (R67). -/
def RegNum.bits (r : RegNum) : BitVec 3 := r.extractLsb' 0 3

/-- The memory operand's form has an encoding (R71, R72, R75): `ext` says whether extension bits are there,
`t16` whether the 16-bit table applies. -/
def MemOperand.wellFormed (ext t16 : Bool) : MemOperand → Bool
  | .base b d => !t16 && (ext || RegNum.low b) && RegNum.bits b != 4#3 && !(d.isNone && RegNum.bits b == 5#3)
  | .sib _ x b d => !t16 && (ext || (RegNum.low x && RegNum.low b)) && !(d.isNone && RegNum.bits b == 5#3)
  | .sibNoBase _ x _ => !t16 && (ext || RegNum.low x)
  | .disp32 _ => !t16
  | .base16 b d => t16 && !(d.isNone && b == .bp)
  | .abs16 _ => t16

/-- The source operand has an encoding. -/
def Source.wellFormed (ext t16 : Bool) : Source → Bool
  | .reg j => ext || RegNum.low j
  | .mem m => m.wellFormed ext t16

/-- The legacy format's REX byte carries the extension bits, and exists in 64-bit mode only (R61, R63). -/
def LegacyPrefixes.ext (p : LegacyPrefixes) : Bool := p.rex == .effective

/-- Which forms have an encoding in a mode. The VEX prefix's extension bits exist in 64-bit mode only (R64,
R77); in 32-bit mode `vvvv` = 0111b is refused by the decoder (R77, U6). -/
def View.wellFormed (m : Mode) : View → Bool
  | .legacy _ p dst src =>
    (m == .mode64 || p.rex == .absent) && (p.ext || RegNum.low dst)
      && src.wellFormed p.ext (usesTable16 m p.addrSize)
  | .vex _ _ p vvvv dst src =>
    (m == .mode64 || (!p.rex && vvvv != 7#4 && RegNum.low dst))
      && src.wellFormed (m == .mode64) (usesTable16 m p.addrSize)

/-- Which instructions have an encoding in a mode. -/
def Instr.wellFormed (m : Mode) (i : Instr) : Bool := i.view.wellFormed m

end Sys2Proof
end

