-- ==== Sys2Proof/Decode.lean ====
section
/-!
DEFINITION. The decoder, total on any bytes (30_encoding.md R80), and after it the encoder and an
instruction's length (R78), written from the same tables of 30_encoding.md.
-/

namespace Sys2Proof

/-- Why the decoder refuses bytes that are, but for their prefixes or `vvvv`, a form in scope. -/
inductive DecodeRefusal where
  /-- A repeated prefix, or two prefixes of one group (R62, U4). -/
  | repeatedPrefix
  /-- F2H or F3H before a legacy form (R62, U3). -/
  | repBeforeLegacy
  /-- `vvvv` = 0111b in 32-bit mode (R77, U6, D23). -/
  | vvvv0111
  deriving DecidableEq, Repr

/-- What the decoder makes of a byte string: an instruction and the bytes after it, a refusal, or no form in
scope. Bytes that R80 answers with `UD` are an instruction here, whose meaning raises `#UD`; `decodeAnswer`
is R80's own four answers. -/
inductive Decoded where
  | insn (i : Instr) (rest : List Byte)
  | refused (r : DecodeRefusal)
  | notInScope
  deriving DecidableEq, Repr

/-! ## Fields and helpers -/

/-- A register number from its extension bit and its three bits (R67). -/
def regNum (ext : Bool) (bits : BitVec 3) : RegNum := BitVec.ofBool ext ++ bits

/-- `ModRM.mod` or `SIB.scale`, bits 7:6 (R67, R72). -/
def field76 (b : Byte) : BitVec 2 := b.extractLsb' 6 2

/-- `ModRM.reg` or `SIB.index`, bits 5:3 (R67, R72). -/
def field53 (b : Byte) : BitVec 3 := b.extractLsb' 3 3

/-- `ModRM.r/m` or `SIB.base`, bits 2:0 (R67, R72). -/
def field20 (b : Byte) : BitVec 3 := b.extractLsb' 0 3

/-- A `ModRM` or `SIB` byte from its fields (R67, R72). -/
def byteOfFields (f76 : BitVec 2) (f53 f20 : BitVec 3) : Byte := f76 ++ f53 ++ f20

/-! ## Prefixes -/

/-- One prefix byte (R62, R63). -/
inductive PrefixByte where
  | group1 (g : Group1)
  | seg (s : SegReg)
  | opSize
  | addrSize
  /-- A REX byte, with its bits `W R X B`. -/
  | rex (wrxb : BitVec 4)
  deriving DecidableEq, Repr

/-- The segment register an override byte names (R62). -/
def segOfByte (b : Byte) : Option SegReg :=
  if b = 0x26#8 then some .es
  else if b = 0x2E#8 then some .cs
  else if b = 0x36#8 then some .ss
  else if b = 0x3E#8 then some .ds
  else if b = 0x64#8 then some .fs
  else if b = 0x65#8 then some .gs
  else none

/-- The prefix a byte is, if it is one: 40H to 4FH are REX bytes in 64-bit mode only (R61, R62, R63). -/
def prefixOfByte (m : Mode) (b : Byte) : Option PrefixByte :=
  if b = 0xF0#8 then some (.group1 .lock)
  else if b = 0xF2#8 then some (.group1 .repne)
  else if b = 0xF3#8 then some (.group1 .rep)
  else if b = 0x66#8 then some .opSize
  else if b = 0x67#8 then some .addrSize
  else if m = .mode64 ∧ b.extractLsb' 4 4 = 4#4 then some (.rex (b.extractLsb' 0 4))
  else (segOfByte b).map .seg

/-- The prefixes read so far. -/
structure PrefixScan where
  group1 : Option Group1 := none
  seg : Option SegReg := none
  opSize : Bool := false
  addrSize : Bool := false
  /-- The bits of the REX byte read, if any. -/
  rex : Option (BitVec 4) := none
  /-- The byte read last was the REX byte (R61). -/
  rexLast : Bool := false
  /-- A prefix was repeated, or a second one of its group came (R62). -/
  dup : Bool := false
  deriving DecidableEq, Repr

/-- One more prefix. -/
def scanOne (a : PrefixScan) : PrefixByte → PrefixScan
  | .group1 g => { a with group1 := some g, rexLast := false, dup := a.dup || a.group1.isSome }
  | .seg s => { a with seg := some s, rexLast := false, dup := a.dup || a.seg.isSome }
  | .opSize => { a with opSize := true, rexLast := false, dup := a.dup || a.opSize }
  | .addrSize => { a with addrSize := true, rexLast := false, dup := a.dup || a.addrSize }
  | .rex b => { a with rex := some b, rexLast := true, dup := a.dup || a.rex.isSome }

/-- Read prefixes until a byte that is none (R78). -/
def scanPrefixes (m : Mode) (a : PrefixScan) : List Byte → PrefixScan × List Byte
  | [] => (a, [])
  | b :: bs =>
    match prefixOfByte m b with
    | some p => scanPrefixes m (scanOne a p) bs
    | none => (a, b :: bs)

/-- What became of the REX byte of a legacy form (R61). -/
def PrefixScan.rexUse (a : PrefixScan) : RexUse :=
  if a.rex.isNone then .absent else if a.rexLast then .effective else .ignored

/-- The bits `W R X B` in force for a legacy form: zero without an effective REX byte (R61, R63). -/
def PrefixScan.rexBits (a : PrefixScan) : BitVec 4 :=
  if a.rexLast then a.rex.getD 0#4 else 0#4

/-! ## The source operand -/

/-- A little-endian doubleword displacement (R70). -/
def takeDisp32 : List Byte → Option (BitVec 32 × List Byte)
  | b0 :: b1 :: b2 :: b3 :: bs => some (b3 ++ b2 ++ b1 ++ b0, bs)
  | _ => none

/-- A little-endian word displacement (R70). -/
def takeDisp16 : List Byte → Option (BitVec 16 × List Byte)
  | b0 :: b1 :: bs => some (b1 ++ b0, bs)
  | _ => none

/-- The displacement `mod` asks for in 32-bit and 64-bit addressing (R71). -/
def takeDisp (mod : BitVec 2) (bs : List Byte) : Option (Disp × List Byte) :=
  if mod = 0#2 then some (.none, bs)
  else if mod = 1#2 then
    match bs with
    | b :: bs => some (.disp8 b, bs)
    | [] => none
  else (takeDisp32 bs).map fun (d, bs) => (.disp32 d, bs)

/-- The displacement `mod` asks for in 16-bit addressing (R75). -/
def takeDispFor16 (mod : BitVec 2) (bs : List Byte) : Option (Disp16 × List Byte) :=
  if mod = 0#2 then some (.none, bs)
  else if mod = 1#2 then
    match bs with
    | b :: bs => some (.disp8 b, bs)
    | [] => none
  else (takeDisp16 bs).map fun (d, bs) => (.disp16 d, bs)

/-- The register part of a 16-bit address, by `r/m` (R75). -/
def base16OfBits (rm : BitVec 3) : Base16 :=
  if rm = 0#3 then .bxSi
  else if rm = 1#3 then .bxDi
  else if rm = 2#3 then .bpSi
  else if rm = 3#3 then .bpDi
  else if rm = 4#3 then .si
  else if rm = 5#3 then .di
  else if rm = 6#3 then .bp
  else .bx

/-- The memory operand by the 16-bit table (R75). -/
def decodeMem16 (mod : BitVec 2) (rm : BitVec 3) (bs : List Byte) : Option (MemOperand × List Byte) :=
  if mod = 0#2 ∧ rm = 6#3 then (takeDisp16 bs).map fun (d, bs) => (.abs16 d, bs)
  else (takeDispFor16 mod bs).map fun (d, bs) => (.base16 (base16OfBits rm) d, bs)

/-- The memory operand whose `SIB` byte is `sib` (R72). -/
def decodeSib (x b : Bool) (mod : BitVec 2) (sib : Byte) (bs : List Byte) : Option (MemOperand × List Byte) :=
  let index := regNum x (field53 sib)
  if mod = 0#2 ∧ field20 sib = 5#3 then
    (takeDisp32 bs).map fun (d, bs) => (.sibNoBase (field76 sib) index d, bs)
  else
    (takeDisp mod bs).map fun (d, bs) => (.sib (field76 sib) index (regNum b (field20 sib)) d, bs)

/-- The memory operand by the 32-bit and 64-bit table (R71); its tests of `r/m` do not look at `b`. -/
def decodeMem (x b : Bool) (mod : BitVec 2) (rm : BitVec 3) (bs : List Byte) :
    Option (MemOperand × List Byte) :=
  if rm = 4#3 then
    match bs with
    | sib :: bs => decodeSib x b mod sib bs
    | [] => none
  else if mod = 0#2 ∧ rm = 5#3 then (takeDisp32 bs).map fun (d, bs) => (.disp32 d, bs)
  else (takeDisp mod bs).map fun (d, bs) => (.base (regNum b rm) d, bs)

/-- The source operand (R67): `t16` says whether the 16-bit table applies, `x` and `b` are the extension
bits. -/
def decodeSource (t16 x b : Bool) (modrm : Byte) (bs : List Byte) : Option (Source × List Byte) :=
  if field76 modrm = 3#2 then some (.reg (regNum b (field20 modrm)), bs)
  else if t16 then (decodeMem16 (field76 modrm) (field20 modrm) bs).map fun (o, bs) => (.mem o, bs)
  else (decodeMem x b (field76 modrm) (field20 modrm) bs).map fun (o, bs) => (.mem o, bs)

/-! ## The two formats -/

/-- The operation of an opcode byte (R68). -/
def opOfByte (b : Byte) : Option Op :=
  if b = 0x20#8 then some .bw
  else if b = 0x21#8 then some .bd
  else if b = 0x22#8 then some .bq
  else if b = 0x23#8 then some .wd
  else if b = 0x24#8 then some .wq
  else if b = 0x25#8 then some .dq
  else none

/-- A legacy form after its prefixes and `0FH 38H` (R61, R62, R63). Where a LOCK prefix (`#UD`, R132) and a prefix that
R62 refuses are both there, it is refused: the spec gives no order (DESIGN CHOICE, log 34). -/
def decodeLegacy (m : Mode) (a : PrefixScan) (op modrm : Byte) (bs : List Byte) : Decoded :=
  match opOfByte op, decodeSource (usesTable16 m a.addrSize) (a.rexBits.getLsbD 1) (a.rexBits.getLsbD 0) modrm bs with
  | some o, some (src, rest) =>
    if !a.opSize then .notInScope
    else if a.dup then .refused .repeatedPrefix
    else if a.group1 = some .repne ∨ a.group1 = some .rep then .refused .repBeforeLegacy
    else .insn (.legacy o ⟨a.group1.isSome, a.seg, a.addrSize, a.rexUse⟩
      (regNum (a.rexBits.getLsbD 2) (field53 modrm)) src) rest
  | _, _ => .notInScope

/-- The form `VEX.L` selects (R65, C1). -/
def vexForm (wide : Bool) (o : Op) (p : VexPrefixes) (vvvv : BitVec 4) (dst : RegNum) (src : Source) : Instr :=
  View.instr (.vex wide o p vvvv dst src)

/-- A VEX form after its prefixes and `C4H` (R64 to R66, R77). In 32-bit mode the bytes are a VEX prefix only
when bits 7:6 of the second are 11b, and the complemented `B` is ignored. Where a cause of `#UD` (R130, R132) meets a
repeated prefix (R62) or, in 32-bit mode, `vvvv` = 0111b (R77), the form is refused: the spec gives no order (DESIGN
CHOICE, log 34). -/
def decodeVex (m : Mode) (a : PrefixScan) (b1 b2 op modrm : Byte) (bs : List Byte) : Decoded :=
  let r := !b1.getLsbD 7
  let x := !b1.getLsbD 6
  let b := m == .mode64 && !b1.getLsbD 5
  let vvvv := b2.extractLsb' 3 4
  match opOfByte op, decodeSource (usesTable16 m a.addrSize) x b modrm bs with
  | some o, some (src, rest) =>
    if b1.extractLsb' 0 5 ≠ 2#5 ∨ b2.extractLsb' 0 2 ≠ 1#2 then .notInScope
    else if m = .mode32 ∧ field76 b1 ≠ 3#2 then .notInScope
    else if a.dup then .refused .repeatedPrefix
    else if m = .mode32 ∧ vvvv = 7#4 then .refused .vvvv0111
    else .insn (vexForm (b2.getLsbD 2) o ⟨a.group1, a.seg, a.opSize, a.addrSize, a.rex.isSome⟩ vvvv
      (regNum r (field53 modrm)) src) rest
  | _, _ => .notInScope

/-- The decoder (R60, R78, R80): prefixes, then `0FH 38H op ModRM …` or `C4H VEXb1 VEXb2 op ModRM …`. -/
def decode (m : Mode) (bs : List Byte) : Decoded :=
  match scanPrefixes m {} bs with
  | (a, b0 :: b1 :: b2 :: b3 :: rest) =>
    if b0 = 0x0F#8 ∧ b1 = 0x38#8 then decodeLegacy m a b2 b3 rest
    else if b0 = 0xC4#8 then
      match rest with
      | b4 :: rest => decodeVex m a b1 b2 b3 b4 rest
      | [] => .notInScope
    else .notInScope
  | _ => .notInScope

/-! ## The bytes that raise `#UD`, and R80's four answers -/

/-- The `#UD` condition on a legacy form's bytes: a LOCK prefix (R132). -/
def LegacyPrefixes.ud (p : LegacyPrefixes) : Bool := p.lock

/-- The `#UD` conditions on a VEX form's prefixes: LOCK, F2H, F3H, 66H or a REX byte (R132). -/
def VexPrefixes.ud (p : VexPrefixes) : Bool := p.group1.isSome || p.opSize || p.rex

/-- The `#UD` condition on `vvvv` (R130). -/
def vvvvUd (vvvv : BitVec 4) : Bool := vvvv != 15#4

/-- The bytes of this instruction are a form made invalid by a field value or a prefix (R79, R80). -/
def Instr.udByBytes (i : Instr) : Bool :=
  match i.view with
  | .legacy _ p _ _ => p.ud
  | .vex _ _ p vvvv _ _ => p.ud || vvvvUd vvvv

/-! ## Length (R78) -/

/-- One byte if the prefix is there. -/
def presentLen (b : Bool) : Nat := if b then 1 else 0

/-- Bytes of a displacement (R71). -/
def Disp.len : Disp → Nat
  | .none => 0
  | .disp8 _ => 1
  | .disp32 _ => 4

/-- Bytes of a displacement (R75). -/
def Disp16.len : Disp16 → Nat
  | .none => 0
  | .disp8 _ => 1
  | .disp16 _ => 2

/-- Bytes after `ModRM`: `SIB` and displacement (R71, R72, R75). -/
def Source.tailLen : Source → Nat
  | .reg _ => 0
  | .mem (.base _ d) => d.len
  | .mem (.sib _ _ _ d) => 1 + d.len
  | .mem (.sibNoBase _ _ _) => 5
  | .mem (.disp32 _) => 4
  | .mem (.base16 _ d) => d.len
  | .mem (.abs16 _) => 2

/-- Length of a legacy form: its prefixes with the mandatory `66H`, three opcode bytes, `ModRM` and what
follows it (R78). -/
def legacyLen (p : LegacyPrefixes) (src : Source) : Nat :=
  presentLen p.lock + presentLen p.seg.isSome + presentLen p.addrSize + 1 + presentLen (p.rex != .absent)
    + 3 + 1 + src.tailLen

/-- Length of a VEX form: its prefixes, three VEX bytes, the opcode byte, `ModRM` and what follows it
(R78). -/
def vexLen (p : VexPrefixes) (src : Source) : Nat :=
  presentLen p.group1.isSome + presentLen p.seg.isSome + presentLen p.opSize + presentLen p.addrSize
    + presentLen p.rex + 3 + 1 + 1 + src.tailLen

/-- The length of an instruction in bytes, `ilen` (R78, R84). -/
def Instr.len (i : Instr) : Nat :=
  match i.view with
  | .legacy _ p _ src => legacyLen p src
  | .vex _ _ p _ _ src => vexLen p src

/-- R80's four answers. -/
inductive Answer where
  | insn (i : Instr) (ilen : Nat)
  | ud
  | refused (r : DecodeRefusal)
  | notInScope
  deriving DecidableEq, Repr

/-- The decoder's answer in R80's own terms. -/
def decodeAnswer (m : Mode) (bs : List Byte) : Answer :=
  match decode m bs with
  | .insn i _ => if i.udByBytes then .ud else .insn i i.len
  | .refused r => .refused r
  | .notInScope => .notInScope

/-! ## The encoder -/

/-- The opcode byte (R68). -/
def Op.byte : Op → Byte
  | .bw => 0x20#8
  | .bd => 0x21#8
  | .bq => 0x22#8
  | .wd => 0x23#8
  | .wq => 0x24#8
  | .dq => 0x25#8

/-- The byte of a first-group prefix (R62). -/
def Group1.byte : Group1 → Byte
  | .lock => 0xF0#8
  | .repne => 0xF2#8
  | .rep => 0xF3#8

/-- The byte of a segment override (R62). -/
def SegReg.byte : SegReg → Byte
  | .es => 0x26#8
  | .cs => 0x2E#8
  | .ss => 0x36#8
  | .ds => 0x3E#8
  | .fs => 0x64#8
  | .gs => 0x65#8

/-- The bytes of an optional prefix. -/
def presentByte (p : Bool) (b : Byte) : List Byte := if p then [b] else []

/-- A word, low byte first (R70). -/
def bytesOf16 (d : BitVec 16) : List Byte := [d.extractLsb' 0 8, d.extractLsb' 8 8]

/-- A doubleword, low byte first (R70). -/
def bytesOf32 (d : BitVec 32) : List Byte :=
  [d.extractLsb' 0 8, d.extractLsb' 8 8, d.extractLsb' 16 8, d.extractLsb' 24 8]

/-- `mod` of a displacement (R71). -/
def Disp.mod : Disp → BitVec 2
  | .none => 0#2
  | .disp8 _ => 1#2
  | .disp32 _ => 2#2

/-- The bytes of a displacement (R70). -/
def Disp.bytes : Disp → List Byte
  | .none => []
  | .disp8 d => [d]
  | .disp32 d => bytesOf32 d

/-- `mod` of a displacement (R75). -/
def Disp16.mod : Disp16 → BitVec 2
  | .none => 0#2
  | .disp8 _ => 1#2
  | .disp16 _ => 2#2

/-- The bytes of a displacement (R70). -/
def Disp16.bytes : Disp16 → List Byte
  | .none => []
  | .disp8 d => [d]
  | .disp16 d => bytesOf16 d

/-- `r/m` of a 16-bit address (R75). -/
def Base16.bits : Base16 → BitVec 3
  | .bxSi => 0#3
  | .bxDi => 1#3
  | .bpSi => 2#3
  | .bpDi => 3#3
  | .si => 4#3
  | .di => 5#3
  | .bp => 6#3
  | .bx => 7#3

/-- The extension bit of a register number (R67). -/
def RegNum.ext (r : RegNum) : Bool := r.getLsbD 3

/-- How a source operand stands in an instruction: the extension bits it needs, `mod`, `r/m`, and the bytes
after `ModRM` (R67, R71, R72, R75). -/
structure SourceBits where
  x : Bool
  b : Bool
  mod : BitVec 2
  rm : BitVec 3
  tail : List Byte
  deriving DecidableEq, Repr

/-- The source operand's bits. -/
def Source.encode : Source → SourceBits
  | .reg j => ⟨false, RegNum.ext j, 3#2, RegNum.bits j, []⟩
  | .mem (.base b d) => ⟨false, RegNum.ext b, d.mod, RegNum.bits b, d.bytes⟩
  | .mem (.sib s x b d) =>
    ⟨RegNum.ext x, RegNum.ext b, d.mod, 4#3, byteOfFields s (RegNum.bits x) (RegNum.bits b) :: d.bytes⟩
  | .mem (.sibNoBase s x d) =>
    ⟨RegNum.ext x, false, 0#2, 4#3, byteOfFields s (RegNum.bits x) 5#3 :: bytesOf32 d⟩
  | .mem (.disp32 d) => ⟨false, false, 0#2, 5#3, bytesOf32 d⟩
  | .mem (.base16 b d) => ⟨false, false, d.mod, b.bits, d.bytes⟩
  | .mem (.abs16 d) => ⟨false, false, 0#2, 6#3, bytesOf16 d⟩

/-- The bytes of a form: prefixes in one order of those R62 admits, `REX.W` and `VEX.W` zero. -/
def View.encode : View → List Byte
  | .legacy o p dst src =>
    let e := src.encode
    presentByte (p.rex == .ignored) 0x40#8
      ++ presentByte p.lock Group1.lock.byte
      ++ (p.seg.map SegReg.byte).toList
      ++ presentByte p.addrSize 0x67#8
      ++ [0x66#8]
      ++ presentByte (p.rex == .effective)
          (4#4 ++ BitVec.ofBool false ++ BitVec.ofBool (RegNum.ext dst) ++ BitVec.ofBool e.x ++ BitVec.ofBool e.b)
      ++ [0x0F#8, 0x38#8, o.byte, byteOfFields e.mod (RegNum.bits dst) e.rm]
      ++ e.tail
  | .vex wide o p vvvv dst src =>
    let e := src.encode
    presentByte p.rex 0x40#8
      ++ (p.group1.map Group1.byte).toList
      ++ (p.seg.map SegReg.byte).toList
      ++ presentByte p.addrSize 0x67#8
      ++ presentByte p.opSize 0x66#8
      ++ [0xC4#8,
          BitVec.ofBool (!RegNum.ext dst) ++ BitVec.ofBool (!e.x) ++ BitVec.ofBool (!e.b) ++ 2#5,
          BitVec.ofBool false ++ vvvv ++ BitVec.ofBool wide ++ 1#2,
          o.byte, byteOfFields e.mod (RegNum.bits dst) e.rm]
      ++ e.tail

/-- The bytes of an instruction, first byte first (R60). -/
def encode (i : Instr) : List Byte := i.view.encode

/-! ## The opcode table's words -/

/-- The low `k` bytes of a number, the most significant first. -/
def bytesBigEndian (w : Nat) : Nat → List Byte
  | 0 => []
  | k + 1 => BitVec.ofNat 8 (w >>> (8 * k)) :: bytesBigEndian w k

/-- The bytes of a word of spec/opcode_table.json, whose numbers have the first byte most significant, and
zeros after them up to the longest instruction (log 11). -/
def tableBytes (nbits w : Nat) : List Byte :=
  bytesBigEndian w (nbits / 8) ++ List.replicate (Config.maxInstrLen - nbits / 8) 0#8

/-- The instruction the decoder reads, in 64-bit mode, from a word of the opcode table. -/
def decodeTableWord (nbits w : Nat) : Option Instr :=
  match decode .mode64 (tableBytes nbits w) with
  | .insn i _ => some i
  | _ => none

end Sys2Proof
end

