-- ==== Sys2Proof/Machine/State.lean ====
section
/-!
DEFINITION. The machine's state as plain data, the reasons a step stops, and the state after reset
(10_state.md R20 to R33; 20_memory.md R49, R50; 60_exceptions.md R138).
-/

namespace Sys2Proof.Machine

/-- Which kind of operating mode the processor is in (R29 row `mode`, D20). -/
inductive OpMode where
  | protectedMode
  | realAddress
  | virtual8086
  | systemManagement
  deriving DecidableEq, Repr

/-- The implemented linear-address width `LAW` (R49). -/
inductive Law where
  | law48
  | law57
  deriving DecidableEq, Repr

/-- The offsets inside a segment's limit, so that a limit from above and one from below (an expand-down segment) are
both given (D10; log 8). -/
structure OffsetRange where
  lowest : BitVec 32
  highest : BitVec 32
  deriving DecidableEq, Repr

/-- What `Translate` checks of one segment in 32-bit mode (R50, R74, R134, R135). -/
structure SegDesc where
  /-- The offsets inside the segment's limit; none where the segment has no limit (R50: "no limits"). -/
  limit : Option OffsetRange
  /-- The segment register holds a null selector. -/
  isNull : Bool
  /-- The segment may be read. -/
  readable : Bool
  deriving DecidableEq, Repr

/-- What `Translate` knows of the six segments: what it checks of each, and the bases of four in 32-bit mode (R74),
those of FS and GS being `fsbase` and `gsbase` (R23). -/
structure Segments where
  es : SegDesc
  cs : SegDesc
  ss : SegDesc
  ds : SegDesc
  fs : SegDesc
  gs : SegDesc
  esBase : BitVec 32
  csBase : BitVec 32
  ssBase : BitVec 32
  dsBase : BitVec 32
  deriving DecidableEq, Repr

/-- What `Translate` knows of a page (R136). -/
inductive PageKind where
  /-- Not present. -/
  | notPresent
  /-- Present, its translation has a reserved bit set. -/
  | reservedBit
  /-- Present, for the supervisor only. -/
  | supervisor
  /-- Present, for every privilege level. -/
  | user
  deriving DecidableEq, Repr

/-- A page: `size` linear addresses from `first` (R136; log 29). -/
structure Page where
  first : Nat
  size : Nat
  kind : PageKind
  deriving DecidableEq, Repr

/-- Memory: the addresses of ordinary memory with their bytes, in rising order of address; an address not
listed is not ordinary memory (R40, R48, D9; log 9). -/
abbrev Memory := List Host.Cell

/-- Everything the spec gives the machine (10_state.md, `State`, R29, R49, R50). -/
structure State where
  /-- The vector registers `ymm0` to `ymm15` (R20). -/
  ymm : Vector Ymm 16
  /-- The general registers, numbered as R23 numbers them. -/
  x : Vector Addr 16
  /-- The base of segment FS (R23). -/
  fsbase : Addr
  /-- The base of segment GS (R23). -/
  gsbase : Addr
  /-- The instruction pointer (R24). -/
  pc : Addr
  /-- The flags register (R26); bit 18 is `AC` (R29). -/
  eflags : BitVec 64
  /-- The SIMD control and status register (R27). -/
  mxcsr : BitVec 32
  /-- CR0: `EM` bit 2, `TS` bit 3, `AM` bit 18 (R29). -/
  cr0 : BitVec 64
  /-- CR4: `OSFXSR` bit 9, `OSXSAVE` bit 18 (R29). -/
  cr4 : BitVec 64
  /-- XCR0: bit 1 SSE state, bit 2 AVX state (R29). -/
  xcr0 : BitVec 64
  /-- The kind of operating mode (R29, D20). -/
  opMode : OpMode
  /-- IA32_EFER.LMA (R29). -/
  lma : Bool
  /-- The `L` bit of the code segment (R29). -/
  csL : Bool
  /-- The `D` bit of the code segment (R29). -/
  csD : Bool
  /-- The current privilege level (R29, R145). -/
  cpl : BitVec 2
  /-- CPUID reports `SSE4_1` (R28). -/
  featSse41 : Bool
  /-- CPUID reports `AVX` (R28). -/
  featAvx : Bool
  /-- CPUID reports `AVX2` (R28). -/
  featAvx2 : Bool
  /-- The linear-address width (R49). -/
  law : Law
  /-- The segments, as `Translate` uses them in 32-bit mode (R50, R74). -/
  segs : Segments
  /-- `Translate` looks pages up (R136: "when paging is on"). -/
  paging : Bool
  /-- The pages `Translate` knows (R136). -/
  pages : List Page
  /-- Ordinary memory (R40). -/
  mem : Memory
  deriving DecidableEq, Repr

/-- The exceptions of R138: the terminal outcome `Fault(vector, error code)` of R141 and D13, with the whole
state unchanged. Each is what the spec describes; none is a stop of the model's own. All are safe: the model stops
where the hardware goes on to a handler (log 12). -/
inductive Fault where
  /-- `#UD`, invalid opcode: raised by every form (R130, R131, R132); safe. -/
  | ud
  /-- `#NM`, device not available: raised by every form (R133); safe. -/
  | nm
  /-- `#SS(0)`, stack-segment fault: raised by memory-source forms that use SS (R134); safe. -/
  | ss
  /-- `#GP(0)`, general protection: raised by memory-source forms that use another segment (R135);
  safe. -/
  | gp
  /-- `#PF(code)`, page fault: raised by memory-source forms (R136); safe. `linear` is the faulting linear address,
  which the hardware puts into CR2, a register the model does not hold (R50). -/
  | pf (code : BitVec 32) (linear : Addr)
  /-- `#AC(0)`, alignment check: raised by memory-source forms of 2, 4 and 8 bytes (R137); safe. -/
  | ac
  deriving DecidableEq, Repr

/-- The vector number (R138). -/
def Fault.vector : Fault → Nat
  | .ud => 6
  | .nm => 7
  | .ss => 12
  | .gp => 13
  | .pf _ _ => 14
  | .ac => 17

/-- The error code, where the exception has one (R138), in 32 bits (PRESUMED, log 36). -/
def Fault.errorCode : Fault → Option (BitVec 32)
  | .ud => none
  | .nm => none
  | .ss => some 0#32
  | .gp => some 0#32
  | .pf code _ => some code
  | .ac => some 0#32

/-- Why the model has no meaning for a step. Every one is safe: the model stops where the hardware goes on. -/
inductive Refusal where
  /-- An instruction of the table without a meaning: raised by an arm of `exec` only; safe. No arm does. -/
  | notModelled (mnemonic : String)
  /-- The processor is in none of the two modes of the source's mode column (D20): raised by the step and by
  every form before anything else; safe. -/
  | unsupportedMode
  /-- The bytes at `pc` are no form in scope (R80, U5): raised by the step; safe. -/
  | notInScope
  /-- The decoder refuses the bytes at `pc` (R62, R77): raised by the step; safe. -/
  | decoder (r : DecodeRefusal)
  /-- The instruction's bytes wrap past the top of the address space (R25, D12): raised by the step; safe. -/
  | fetchWraps
  /-- A byte of the operand is not ordinary memory (R48, D9): raised by memory-source forms; safe. -/
  | notOrdinaryMemory
  /-- A misaligned operand of 16 bytes with alignment checking in force (R46, U7): raised by the VEX.256 BW,
  WD and DQ forms; safe. -/
  | alignCheck16
  deriving DecidableEq, Repr

/-- A segment without a limit, readable (R50: "flat segments"). -/
def SegDesc.flat : SegDesc := ⟨none, false, true⟩

/-- Six flat segments (R50). -/
def Segments.flat : Segments := ⟨.flat, .flat, .flat, .flat, .flat, .flat, 0#32, 0#32, 0#32, 0#32⟩

/-- A segment as reset leaves it: offsets 0 to FFFFH (log 35). -/
def SegDesc.reset : SegDesc := ⟨some ⟨0#32, 0xFFFF#32⟩, false, true⟩

/-- The segments after reset: the base of CS is FFFF0000H (R32), the others are 0 (log 35). -/
def Segments.reset : Segments :=
  ⟨.reset, .reset, .reset, .reset, .reset, .reset, 0#32, 0xFFFF0000#32, 0#32, 0#32⟩

/-- The machine right after reset (R32 and the whole-register values of R29; logs 4 to 7 and 35). That no address
is ordinary memory is the model's (DESIGN CHOICE, log 37). It is in real-address mode, where the model refuses every
step (D20, R161). -/
def State.reset : State where
  ymm := Vector.replicate 16 0#256
  x := Vector.replicate 16 0#64
  fsbase := 0#64
  gsbase := 0#64
  pc := 0xFFFFFFF0#64
  eflags := 0x00000002#64
  mxcsr := 0x1F80#32
  cr0 := 0x60000010#64
  cr4 := 0#64
  xcr0 := 1#64
  opMode := .realAddress
  lma := false
  csL := false
  csD := false
  cpl := 0#2
  featSse41 := true
  featAvx := true
  featAvx2 := true
  law := .law48
  segs := .reset
  paging := false
  pages := []
  mem := []

end Sys2Proof.Machine
end

