-- ==== Sys2Proof/Machine/Flags.lean ====
section
/-!
DEFINITION. The control bits and the mode that gate the forms, read from the registers that hold them (R28,
R29). No form reads or writes a status flag or an MXCSR bit (R26, R27), so there is no flag computation.
-/

namespace Sys2Proof.Machine

/-- `Env.em`: CR0 bit 2 (R29). -/
def State.em (s : State) : Bool := s.cr0.getLsbD 2

/-- `Env.ts`: CR0 bit 3 (R29). -/
def State.ts (s : State) : Bool := s.cr0.getLsbD 3

/-- `Env.os_sse`: CR4 bit 9 (R29). -/
def State.osSse (s : State) : Bool := s.cr4.getLsbD 9

/-- `Env.os_avx`: CR4 bit 18 and XCR0 bits 2:1 = 11b (R29). -/
def State.osAvx (s : State) : Bool := s.cr4.getLsbD 18 && s.xcr0.getLsbD 1 && s.xcr0.getLsbD 2

/-- `Env.ac_enabled`: CR0 bit 18, EFLAGS bit 18 and `cpl` = 3 (R29, R137). -/
def State.acEnabled (s : State) : Bool := s.cr0.getLsbD 18 && s.eflags.getLsbD 18 && s.cpl == 3#2

/-- `Env.mode`, where the processor is in one of the two modes (R29); otherwise the model refuses (D20): real-
address, virtual-8086 and system-management mode, and a 16-bit code segment. -/
def State.mode? (s : State) : Option Mode :=
  match s.opMode with
  | .protectedMode =>
    if s.lma && s.csL then some .mode64
    else if s.csD then some .mode32
    else none
  | .realAddress => none
  | .virtual8086 => none
  | .systemManagement => none

/-- The feature and enable conditions under which a form of an encoding raises `#UD` (R131). -/
def State.gateUd (s : State) : Enc → Bool
  | .legacy => !s.featSse41 || s.em || !s.osSse
  | .vex128 => !s.featAvx || !s.osAvx
  | .vex256 => !s.featAvx2 || !s.osAvx

end Sys2Proof.Machine
end

