-- ==== Sys2Proof/Machine/Memory.lean ====
section
/-!
DEFINITION. Memory's operations: reading and writing a byte, and the little-endian reading of an operand
(20_memory.md R40 to R43).
-/

namespace Sys2Proof.Machine

/-- The byte at an address; none where the address is not ordinary memory (R40, R48; log 9). -/
def Memory.read : Memory → Nat → Option Byte
  | [], _ => none
  | (a, b) :: cells, k => if a = k then some b else Memory.read cells k

/-- Make an address ordinary memory and put a byte there. No form does (R44): this is how a launch memory is
loaded. -/
def Memory.write (m : Memory) (k : Nat) (v : Byte) : Memory :=
  match m with
  | [] => [(k, v)]
  | (a, b) :: cells =>
    if k < a then (k, v) :: (a, b) :: cells
    else if k = a then (k, v) :: cells
    else (a, b) :: Memory.write cells k v

/-- The addresses rise strictly from above `lo`. -/
def Memory.risesFrom (lo : Nat) : Memory → Bool
  | [] => true
  | (a, _) :: cells => lo ≤ a && Memory.risesFrom (a + 1) cells

/-- The canonical form: addresses strictly rising. An unlisted address reads as nothing, so no entry can equal
what it reads as. -/
def Memory.wf (m : Memory) : Bool := m.risesFrom 0

/-- A linear address within the mode's address width (R31, R49). -/
def wrapAddr (m : Mode) (a : Addr) : Addr :=
  match m with
  | .mode64 => a
  | .mode32 => (a.setWidth 32).setWidth 64

/-- Put bytes at rising addresses, within the mode's address width. -/
def Memory.writeBytes (mem : Memory) (m : Mode) (a : Addr) : List Byte → Memory
  | [] => mem
  | b :: bs => Memory.writeBytes (mem.write (wrapAddr m a).toNat b) m (a + 1#64) bs

/-- `MemRead(addr, n)`, zero-extended to 128 bits: the byte at `addr + k` in bits 8k+7:8k (R41, R100); none
where one of the bytes is not ordinary memory (R48). -/
def memRead (mem : Memory) (m : Mode) (addr : Addr) : Nat → Option Xmm
  | 0 => some 0#128
  | n + 1 =>
    match mem.read (wrapAddr m addr).toNat, memRead mem m (addr + 1#64) n with
    | some b, some rest => some (rest <<< 8 ||| b.setWidth 128)
    | _, _ => none

/-- Up to `n` bytes from an address upwards, as far as they are ordinary memory. -/
def fetchBytes (mem : Memory) (m : Mode) (addr : Addr) : Nat → List Byte
  | 0 => []
  | n + 1 =>
    match mem.read (wrapAddr m addr).toNat with
    | some b => b :: fetchBytes mem m (addr + 1#64) n
    | none => []

end Sys2Proof.Machine
end

