-- ==== Sys2Proof/Machine/Operands.lean ====
section
/-!
DEFINITION. The operand forms: effective address (30_encoding.md R71 to R73, R75), segment (R74), translation
(20_memory.md R49, R50, R76; 60_exceptions.md R134 to R136), alignment checking (R46, R137) and the source
operand's value (R100 step 3).
-/

namespace Sys2Proof.Machine

/-- General register `r`, all 64 bits (R23). -/
def State.gpr (s : State) (r : RegNum) : Addr := s.x.get r.toFin

/-- A whole vector register (R20). -/
def State.ymmGet (s : State) (r : RegNum) : Ymm := s.ymm.get r.toFin

/-- `xmm[r]`, bits 127:0 of `ymm[r]` (R21). -/
def State.xmmGet (s : State) (r : RegNum) : Xmm := (s.ymmGet r).setWidth 128

/-! ## Effective address -/

/-- The address size (30_encoding.md section 3, R75). -/
inductive AddrSize where
  | as16
  | as32
  | as64
  deriving DecidableEq, Repr

/-- The address size of a mode, and of `67H` in it (R75). -/
def addrSizeOf : Mode → Bool → AddrSize
  | .mode64, false => .as64
  | .mode64, true => .as32
  | .mode32, false => .as32
  | .mode32, true => .as16

/-- A sum modulo 2^AS, zero-extended (R72, R75). -/
def AddrSize.trunc : AddrSize → Addr → Addr
  | .as16, a => (a.setWidth 16).setWidth 64
  | .as32, a => (a.setWidth 32).setWidth 64
  | .as64, a => a

/-- A displacement's value, sign-extended (R70, R71). -/
def dispValue : Disp → Addr
  | .none => 0#64
  | .disp8 d => d.signExtend 64
  | .disp32 d => d.signExtend 64

/-- A displacement's value in 16-bit addressing (R70, R75). -/
def disp16Value : Disp16 → Addr
  | .none => 0#64
  | .disp8 d => d.signExtend 64
  | .disp16 d => d.setWidth 64

/-- The scaled index; index number 4 is no index (R72). -/
def State.scaledIndex (s : State) (scale : BitVec 2) (index : RegNum) : Addr :=
  if index = 4#4 then 0#64 else s.gpr index <<< scale.toNat

/-- The registers of a 16-bit address: BX is number 3, BP 5, SI 6, DI 7 (R23, R75). -/
def State.base16Value (s : State) : Base16 → Addr
  | .bxSi => s.gpr 3#4 + s.gpr 6#4
  | .bxDi => s.gpr 3#4 + s.gpr 7#4
  | .bpSi => s.gpr 5#4 + s.gpr 6#4
  | .bpDi => s.gpr 5#4 + s.gpr 7#4
  | .si => s.gpr 6#4
  | .di => s.gpr 7#4
  | .bp => s.gpr 5#4
  | .bx => s.gpr 3#4

/-- The sum an addressing form stands for, before it is reduced to the address size; `next` is the address of
the next instruction (R71, R72, R73, R75). -/
def State.addressSum (s : State) (m : Mode) (next : Addr) : MemOperand → Addr
  | .base b d => s.gpr b + dispValue d
  | .sib sc ix b d => s.gpr b + s.scaledIndex sc ix + dispValue d
  | .sibNoBase sc ix d => s.scaledIndex sc ix + d.signExtend 64
  | .disp32 d =>
    match m with
    | .mode64 => next + d.signExtend 64
    | .mode32 => d.signExtend 64
  | .base16 b d => s.base16Value b + disp16Value d
  | .abs16 d => d.setWidth 64

/-- The effective address `ea` (R71 to R73, R75) of an instruction of `len` bytes at `pc`. -/
def State.effectiveAddr (s : State) (m : Mode) (addrSize : Bool) (len : Nat) (o : MemOperand) : Addr :=
  (addrSizeOf m addrSize).trunc (s.addressSum m (s.pc + BitVec.ofNat 64 len) o)

/-! ## Segment -/

/-- The default segment (R74): SS for base register number 4 or 5 without extension and for the 16-bit forms
with BP, otherwise DS. -/
def defaultSeg : MemOperand → SegReg
  | .base b _ => if b = 5#4 then .ss else .ds
  | .sib _ _ b _ => if b = 4#4 ∨ b = 5#4 then .ss else .ds
  | .sibNoBase _ _ _ => .ds
  | .disp32 _ => .ds
  | .base16 b _ => if b = .bpSi ∨ b = .bpDi ∨ b = .bp then .ss else .ds
  | .abs16 _ => .ds

/-- The segment an access uses (R74): in 64-bit mode only the FS and GS overrides have an effect. -/
def segmentOf (m : Mode) (override : Option SegReg) (o : MemOperand) : SegReg :=
  match m, override with
  | _, none => defaultSeg o
  | .mode32, some r => r
  | .mode64, some .fs => .fs
  | .mode64, some .gs => .gs
  | .mode64, some _ => defaultSeg o

/-- The base of a segment (R23, R74): `fsbase` or `gsbase`, or for the other four, in 32-bit mode, the base that
`Translate` knows; in 64-bit mode theirs is zero. -/
def State.segBase (s : State) (m : Mode) (r : SegReg) : Addr :=
  match r, m with
  | .fs, _ => s.fsbase
  | .gs, _ => s.gsbase
  | _, .mode64 => 0#64
  | .es, .mode32 => s.segs.esBase.setWidth 64
  | .cs, .mode32 => s.segs.csBase.setWidth 64
  | .ss, .mode32 => s.segs.ssBase.setWidth 64
  | .ds, .mode32 => s.segs.dsBase.setWidth 64

/-- What `Translate` knows of a segment. -/
def State.segDesc (s : State) : SegReg → SegDesc
  | .es => s.segs.es
  | .cs => s.segs.cs
  | .ss => s.segs.ss
  | .ds => s.segs.ds
  | .fs => s.segs.fs
  | .gs => s.segs.gs

/-! ## Translation -/

/-- The linear address: the sum with the segment's base, modulo the address width (R74, R76). -/
def State.linearAddr (s : State) (m : Mode) (seg : SegReg) (ea : Addr) : Addr :=
  wrapAddr m (ea + s.segBase m seg)

/-- Bits 63 down to `LAW`-1 are all equal (R49). -/
def canonical (law : Law) (a : Addr) : Bool :=
  match law with
  | .law48 => a.extractLsb' 47 17 == 0#17 || a.extractLsb' 47 17 == BitVec.allOnes 17
  | .law57 => a.extractLsb' 56 8 == 0#8 || a.extractLsb' 56 8 == BitVec.allOnes 8

/-- The addresses of an operand's bytes (R41; log 17). -/
def operandBytes (m : Mode) (lin : Addr) (n : Nat) : List Addr :=
  (List.range n).map fun k => wrapAddr m (lin + BitVec.ofNat 64 k)

/-- In 32-bit mode, a byte of the operand is outside the segment's limit, if it has one (R50, R134, R135). Where it
has one, a byte's offset is not reduced, so one at 2^32 or above is outside (DESIGN CHOICE, log 8). -/
def outsideLimit (d : SegDesc) (ea : Addr) (n : Nat) : Bool :=
  d.limit.any fun r =>
    (List.range n).any fun k => ea.toNat + k < r.lowest.toNat || r.highest.toNat < ea.toNat + k

/-- The segment and canonical checks fail: in 64-bit mode a byte's address is not canonical (log 16), in 32-bit
mode a byte is outside the limit, or a segment other than SS is null or not readable (R134, R135; log 31). -/
def State.segmentBad (s : State) (m : Mode) (seg : SegReg) (ea : Addr) (n : Nat) : Bool :=
  match m with
  | .mode64 => (operandBytes m (s.linearAddr m seg ea) n).any fun a => !canonical s.law a
  | .mode32 =>
    outsideLimit (s.segDesc seg) ea n
      || (seg != .ss && ((s.segDesc seg).isNull || !(s.segDesc seg).readable))

/-- `#SS(0)` for the SS segment, `#GP(0)` for every other (R134, R135). -/
def segmentFault (seg : SegReg) : Fault := if seg = .ss then .ss else .gp

/-- The kind of the page an address lies in; an address in no page the translation knows is in a page that is
not present (log 29). -/
def pageKindAt (pages : List Page) (a : Addr) : PageKind :=
  match pages.find? fun p => decide (p.first ≤ a.toNat ∧ a.toNat < p.first + p.size) with
  | some p => p.kind
  | none => .notPresent

/-- The error code of a page fault on a read: bit 0 page present, bit 2 `cpl` = 3, bit 3 reserved bit (R136).
The 32 bits and the zeros above bit 4 are the model's (PRESUMED, log 36). -/
def pfCode (present user reserved : Bool) : BitVec 32 :=
  (BitVec.ofBool reserved ++ BitVec.ofBool user ++ BitVec.ofBool false ++ BitVec.ofBool present).setWidth 32

/-- The page-fault error code of a byte's address, if its page faults (R136). -/
def State.pageFaultCode (s : State) (a : Addr) : Option (BitVec 32) :=
  let user := s.cpl == 3#2
  match pageKindAt s.pages a with
  | .notPresent => some (pfCode false user false)
  | .reservedBit => some (pfCode true user true)
  | .supervisor => if user then some (pfCode true user false) else none
  | .user => none

/-- The operand's bytes that lie in faulting pages, with the error code of each. -/
def State.faultingBytes (s : State) (m : Mode) (lin : Addr) (n : Nat) : List (Addr × BitVec 32) :=
  (operandBytes m lin n).filterMap fun a => (s.pageFaultCode a).map fun c => (a, c)

/-- The page fault that is reported: of one of the bytes that fault, which one being a free value (log 13). -/
def reportedPageFault (lin : Addr) (n : Nat) (first : Addr × BitVec 32) (rest : List (Addr × BitVec 32)) :
    Fault :=
  let all := first :: rest
  let chosen := all.getD (Config.faultingByte lin n % all.length) first
  .pf (if rest.all fun f => f.2 == first.2 then first.2 else chosen.2) chosen.1

/-- The page check (R136). -/
def State.pageFault (s : State) (m : Mode) (lin : Addr) (n : Nat) : Option Fault :=
  if s.paging then
    match s.faultingBytes m lin n with
    | [] => none
    | f :: rest => some (reportedPageFault lin n f rest)
  else none

/-- The oracle `Translate(Env, seg, ea, n, Read)` (R50): a linear address, or a fault. -/
def State.translate (s : State) (m : Mode) (seg : SegReg) (ea : Addr) (n : Nat) : Except Fault Addr :=
  if s.segmentBad m seg ea n then .error (segmentFault seg)
  else
    match s.pageFault m (s.linearAddr m seg ea) n with
    | some f => .error f
    | none => .ok (s.linearAddr m seg ea)

/-! ## The source operand's value -/

/-- Alignment checking is in force and the operand is not aligned to its size (R46). -/
def State.misaligned (s : State) (lin : Addr) (n : Nat) : Bool := s.acEnabled && lin.toNat % n != 0

/-- What a misaligned operand comes to under alignment checking: `#AC(0)`, or, for 16 bytes, a refusal (R46,
R100, U7). -/
def alignStop (n : Nat) : Host.Outcome Xmm Fault Refusal :=
  if n = 16 then .refused .alignCheck16 else .fault .ac

/-- `MemRead(lin, n)` in ordinary memory (R41, R48). -/
def State.load (s : State) (m : Mode) (lin : Addr) (n : Nat) : Host.Outcome Xmm Fault Refusal :=
  match memRead s.mem m lin n with
  | some v => .next v
  | none => .refused .notOrdinaryMemory

/-- The value of a memory operand of `n` bytes (R100 step 3), the checks in the order of R139. Where a page
fault and the alignment check both apply, which is reported is a free value (U8; log 14). -/
def State.readMem (s : State) (m : Mode) (seg : SegReg) (ea : Addr) (n : Nat) :
    Host.Outcome Xmm Fault Refusal :=
  let lin := s.linearAddr m seg ea
  match s.translate m seg ea n with
  | .ok _ => if s.misaligned lin n then alignStop n else s.load m lin n
  | .error f =>
    if !s.segmentBad m seg ea n && s.misaligned lin n && Config.acBeforePf lin n then alignStop n
    else .fault f

/-- `SRC` (R100 step 3): the low 128 bits of a register, a snapshot, or `n` bytes of memory. -/
def State.readSource (s : State) (m : Mode) (override : Option SegReg) (addrSize : Bool) (n len : Nat) :
    Source → Host.Outcome Xmm Fault Refusal
  | .reg j => .next (s.xmmGet j)
  | .mem o => s.readMem m (segmentOf m override o) (s.effectiveAddr m addrSize len o) n

end Sys2Proof.Machine
end

