-- ==== Sys2Proof/Machine/Ops.lean ====
section
/-!
DEFINITION. The named operations every meaning is made of: writing a vector register, advancing `pc`, raising an
exception, and the execution rule all forms share (40_pmovsx_legacy_sse.md R100).
-/

namespace Sys2Proof.Machine

/-! ## Registers -/

/-- Write all bits of a vector register (R9). -/
def State.ymmSet (s : State) (r : RegNum) (v : Ymm) : State := { s with ymm := s.ymm.set r.toNat v r.isLt }

/-- A legacy form's write: bits 127:0, the bits above unchanged (R21, R100). -/
def State.writeLegacy (s : State) (r : RegNum) (v : Xmm) : State :=
  s.ymmSet r ((s.ymmGet r).extractLsb' 128 128 ++ v)

/-- A VEX.128 form's write: bits 127:0, the bits above zeroed (R21, R100). -/
def State.writeVex128 (s : State) (r : RegNum) (v : Xmm) : State := s.ymmSet r (v.setWidth 256)

/-- A VEX.256 form's write: all bits (R100), from the results of its two helper calls. -/
def State.writeVex256 (s : State) (r : RegNum) (hi lo : Xmm) : State := s.ymmSet r (hi ++ lo)

/-- The address of the next instruction, modulo the address width (R25). -/
def nextPc (m : Mode) (pc : Addr) (len : Nat) : Addr := wrapAddr m (pc + BitVec.ofNat 64 len)

/-- `pc <- pc + ilen` (R25). -/
def State.advance (s : State) (m : Mode) (len : Nat) : State := { s with pc := nextPc m s.pc len }

/-! ## Exceptions -/

/-- Taking an exception (R140, R141, D13): the terminal outcome that names it, nothing written. Delivery through
a descriptor table and the return from a handler are out of the spec's scope (00_scope.md section 3; log 12),
so there is no return operation beside it. -/
def raise (f : Fault) : Host.Outcome State Fault Refusal := .fault f

/-! ## The execution rule -/

/-- Go on with a value, or stop as it stopped. -/
def andThen {α β : Type} (o : Host.Outcome α Fault Refusal) (k : α → Host.Outcome β Fault Refusal) :
    Host.Outcome β Fault Refusal :=
  match o with
  | .next v => k v
  | .fault f => .fault f
  | .refused r => .refused r

/-- What an instruction's execution needs beside its operands: the encoding whose gates apply, whether its bytes
raise `#UD`, its segment override, its `67H` prefix, the bytes of its memory operand (R43) and its length. -/
structure FormInfo where
  enc : Enc
  udByBytes : Bool
  seg : Option SegReg
  addrSize : Bool
  memBytes : Nat
  len : Nat
  deriving DecidableEq, Repr

/-- Execution of one form (R100): `#UD`, `#NM`, the source, then `write` with the source's value, then `pc`. The
modes of D20 are refused before that. -/
def executeForm (f : FormInfo) (src : Source) (write : Xmm → State → State) (s : State) :
    Host.Outcome State Fault Refusal :=
  match s.mode? with
  | none => .refused .unsupportedMode
  | some m =>
    if f.udByBytes || s.gateUd f.enc then raise .ud
    else if s.ts then raise .nm
    else
      andThen (s.readSource m f.seg f.addrSize f.memBytes f.len src) fun v =>
        .next ((write v s).advance m f.len)

/-- A legacy form (R107 to R112) with its lane function and the bytes of its memory operand. -/
def executeLegacy (memBytes : Nat) (lanes : Xmm → Xmm) (p : LegacyPrefixes) (dst : RegNum) (src : Source)
    (s : State) : Host.Outcome State Fault Refusal :=
  executeForm ⟨.legacy, p.ud, p.seg, p.addrSize, memBytes, legacyLen p src⟩ src
    (fun v s => s.writeLegacy dst (lanes v)) s

/-- A VEX.128 form (R113 to R118). -/
def executeVex128 (memBytes : Nat) (lanes : Xmm → Xmm) (p : VexPrefixes) (vvvv : BitVec 4) (dst : RegNum)
    (src : Source) (s : State) : Host.Outcome State Fault Refusal :=
  executeForm ⟨.vex128, p.ud || vvvvUd vvvv, p.seg, p.addrSize, memBytes, vexLen p src⟩ src
    (fun v s => s.writeVex128 dst (lanes v)) s

/-- A VEX.256 form (R119 to R124): `hi` and `lo` are its two helper calls. -/
def executeVex256 (memBytes : Nat) (hi lo : Xmm → Xmm) (p : VexPrefixes) (vvvv : BitVec 4) (dst : RegNum)
    (src : Source) (s : State) : Host.Outcome State Fault Refusal :=
  executeForm ⟨.vex256, p.ud || vvvvUd vvvv, p.seg, p.addrSize, memBytes, vexLen p src⟩ src
    (fun v s => s.writeVex256 dst (hi v) (lo v)) s

end Sys2Proof.Machine
end

