-- ==== Sys2Proof/Machine/Legacy.lean ====
section
/-!
DEFINITION. The six legacy SSE4_1 forms (40_pmovsx_legacy_sse.md R107 to R112): each its helper applied to the low
bits of the source.
-/

namespace Sys2Proof.Machine

/-- `PMOVSXBW xmm1, xmm2/m64` (R107). -/
def execPmovsxbw (p : LegacyPrefixes) (dst : RegNum) (src : Source) (s : State) :
    Host.Outcome State Fault Refusal :=
  executeLegacy 8 (fun v => packedSignExtendByteToWord (v.extractLsb' 0 64)) p dst src s

/-- `PMOVSXBD xmm1, xmm2/m32` (R108). -/
def execPmovsxbd (p : LegacyPrefixes) (dst : RegNum) (src : Source) (s : State) :
    Host.Outcome State Fault Refusal :=
  executeLegacy 4 (fun v => packedSignExtendByteToDword (v.extractLsb' 0 32)) p dst src s

/-- `PMOVSXBQ xmm1, xmm2/m16` (R109). -/
def execPmovsxbq (p : LegacyPrefixes) (dst : RegNum) (src : Source) (s : State) :
    Host.Outcome State Fault Refusal :=
  executeLegacy 2 (fun v => packedSignExtendByteToQword (v.extractLsb' 0 16)) p dst src s

/-- `PMOVSXWD xmm1, xmm2/m64` (R110). -/
def execPmovsxwd (p : LegacyPrefixes) (dst : RegNum) (src : Source) (s : State) :
    Host.Outcome State Fault Refusal :=
  executeLegacy 8 (fun v => packedSignExtendWordToDword (v.extractLsb' 0 64)) p dst src s

/-- `PMOVSXWQ xmm1, xmm2/m32` (R111). -/
def execPmovsxwq (p : LegacyPrefixes) (dst : RegNum) (src : Source) (s : State) :
    Host.Outcome State Fault Refusal :=
  executeLegacy 4 (fun v => packedSignExtendWordToQword (v.extractLsb' 0 32)) p dst src s

/-- `PMOVSXDQ xmm1, xmm2/m64` (R112). -/
def execPmovsxdq (p : LegacyPrefixes) (dst : RegNum) (src : Source) (s : State) :
    Host.Outcome State Fault Refusal :=
  executeLegacy 8 (fun v => packedSignExtendDwordToQword (v.extractLsb' 0 64)) p dst src s

end Sys2Proof.Machine
end

