-- ==== Sys2Proof/Machine/Vex128.lean ====
section
/-!
DEFINITION. The six VEX.128 forms (41_vpmovsx_vex128.md R113 to R118): each its helper applied to the low bits of the
source (C3), the rest of the destination zeroed.
-/

namespace Sys2Proof.Machine

/-- `VPMOVSXBW xmm1, xmm2/m64` (R113). -/
def execVpmovsxbw128 (p : VexPrefixes) (vvvv : BitVec 4) (dst : RegNum) (src : Source) (s : State) :
    Host.Outcome State Fault Refusal :=
  executeVex128 8 (fun v => packedSignExtendByteToWord (v.extractLsb' 0 64)) p vvvv dst src s

/-- `VPMOVSXBD xmm1, xmm2/m32` (R114). -/
def execVpmovsxbd128 (p : VexPrefixes) (vvvv : BitVec 4) (dst : RegNum) (src : Source) (s : State) :
    Host.Outcome State Fault Refusal :=
  executeVex128 4 (fun v => packedSignExtendByteToDword (v.extractLsb' 0 32)) p vvvv dst src s

/-- `VPMOVSXBQ xmm1, xmm2/m16` (R115). -/
def execVpmovsxbq128 (p : VexPrefixes) (vvvv : BitVec 4) (dst : RegNum) (src : Source) (s : State) :
    Host.Outcome State Fault Refusal :=
  executeVex128 2 (fun v => packedSignExtendByteToQword (v.extractLsb' 0 16)) p vvvv dst src s

/-- `VPMOVSXWD xmm1, xmm2/m64` (R116). -/
def execVpmovsxwd128 (p : VexPrefixes) (vvvv : BitVec 4) (dst : RegNum) (src : Source) (s : State) :
    Host.Outcome State Fault Refusal :=
  executeVex128 8 (fun v => packedSignExtendWordToDword (v.extractLsb' 0 64)) p vvvv dst src s

/-- `VPMOVSXWQ xmm1, xmm2/m32` (R117). -/
def execVpmovsxwq128 (p : VexPrefixes) (vvvv : BitVec 4) (dst : RegNum) (src : Source) (s : State) :
    Host.Outcome State Fault Refusal :=
  executeVex128 4 (fun v => packedSignExtendWordToQword (v.extractLsb' 0 32)) p vvvv dst src s

/-- `VPMOVSXDQ xmm1, xmm2/m64` (R118). -/
def execVpmovsxdq128 (p : VexPrefixes) (vvvv : BitVec 4) (dst : RegNum) (src : Source) (s : State) :
    Host.Outcome State Fault Refusal :=
  executeVex128 8 (fun v => packedSignExtendDwordToQword (v.extractLsb' 0 64)) p vvvv dst src s

end Sys2Proof.Machine
end

