-- ==== Sys2Proof/Machine/Vex256.lean ====
section
/-!
DEFINITION. The six VEX.256 forms (42_vpmovsx_vex256.md R119 to R124): each two calls of its helper, on the next source
bits for bits 255:128.
-/

namespace Sys2Proof.Machine

/-- `VPMOVSXBW ymm1, xmm2/m128` (R119). -/
def execVpmovsxbw256 (p : VexPrefixes) (vvvv : BitVec 4) (dst : RegNum) (src : Source) (s : State) :
    Host.Outcome State Fault Refusal :=
  executeVex256 16 (fun v => packedSignExtendByteToWord (v.extractLsb' 64 64))
    (fun v => packedSignExtendByteToWord (v.extractLsb' 0 64)) p vvvv dst src s

/-- `VPMOVSXBD ymm1, xmm2/m64` (R120). -/
def execVpmovsxbd256 (p : VexPrefixes) (vvvv : BitVec 4) (dst : RegNum) (src : Source) (s : State) :
    Host.Outcome State Fault Refusal :=
  executeVex256 8 (fun v => packedSignExtendByteToDword (v.extractLsb' 32 32))
    (fun v => packedSignExtendByteToDword (v.extractLsb' 0 32)) p vvvv dst src s

/-- `VPMOVSXBQ ymm1, xmm2/m32` (R121). -/
def execVpmovsxbq256 (p : VexPrefixes) (vvvv : BitVec 4) (dst : RegNum) (src : Source) (s : State) :
    Host.Outcome State Fault Refusal :=
  executeVex256 4 (fun v => packedSignExtendByteToQword (v.extractLsb' 16 16))
    (fun v => packedSignExtendByteToQword (v.extractLsb' 0 16)) p vvvv dst src s

/-- `VPMOVSXWD ymm1, xmm2/m128` (R122). -/
def execVpmovsxwd256 (p : VexPrefixes) (vvvv : BitVec 4) (dst : RegNum) (src : Source) (s : State) :
    Host.Outcome State Fault Refusal :=
  executeVex256 16 (fun v => packedSignExtendWordToDword (v.extractLsb' 64 64))
    (fun v => packedSignExtendWordToDword (v.extractLsb' 0 64)) p vvvv dst src s

/-- `VPMOVSXWQ ymm1, xmm2/m64` (R123). -/
def execVpmovsxwq256 (p : VexPrefixes) (vvvv : BitVec 4) (dst : RegNum) (src : Source) (s : State) :
    Host.Outcome State Fault Refusal :=
  executeVex256 8 (fun v => packedSignExtendWordToQword (v.extractLsb' 32 32))
    (fun v => packedSignExtendWordToQword (v.extractLsb' 0 32)) p vvvv dst src s

/-- `VPMOVSXDQ ymm1, xmm2/m128` (R124). -/
def execVpmovsxdq256 (p : VexPrefixes) (vvvv : BitVec 4) (dst : RegNum) (src : Source) (s : State) :
    Host.Outcome State Fault Refusal :=
  executeVex256 16 (fun v => packedSignExtendDwordToQword (v.extractLsb' 64 64))
    (fun v => packedSignExtendDwordToQword (v.extractLsb' 0 64)) p vvvv dst src s

end Sys2Proof.Machine
end

