-- ==== Sys2Proof/Machine/Dispatch.lean ====
section
/-!
DEFINITION. The dispatch: one arm for each form of the opcode table, in its order.
-/

namespace Sys2Proof.Machine

/-- The meaning of an instruction, by its constructor. -/
def exec (i : Instr) (s : State) : Host.Outcome State Fault Refusal :=
  match i with
  | .pmovsxbw p dst src => Sys2Proof.Machine.execPmovsxbw p dst src s
  | .pmovsxbd p dst src => Sys2Proof.Machine.execPmovsxbd p dst src s
  | .pmovsxbq p dst src => Sys2Proof.Machine.execPmovsxbq p dst src s
  | .pmovsxwd p dst src => Sys2Proof.Machine.execPmovsxwd p dst src s
  | .pmovsxwq p dst src => Sys2Proof.Machine.execPmovsxwq p dst src s
  | .pmovsxdq p dst src => Sys2Proof.Machine.execPmovsxdq p dst src s
  | .vpmovsxbw128 p vvvv dst src => Sys2Proof.Machine.execVpmovsxbw128 p vvvv dst src s
  | .vpmovsxbd128 p vvvv dst src => Sys2Proof.Machine.execVpmovsxbd128 p vvvv dst src s
  | .vpmovsxbq128 p vvvv dst src => Sys2Proof.Machine.execVpmovsxbq128 p vvvv dst src s
  | .vpmovsxwd128 p vvvv dst src => Sys2Proof.Machine.execVpmovsxwd128 p vvvv dst src s
  | .vpmovsxwq128 p vvvv dst src => Sys2Proof.Machine.execVpmovsxwq128 p vvvv dst src s
  | .vpmovsxdq128 p vvvv dst src => Sys2Proof.Machine.execVpmovsxdq128 p vvvv dst src s
  | .vpmovsxbw256 p vvvv dst src => Sys2Proof.Machine.execVpmovsxbw256 p vvvv dst src s
  | .vpmovsxbd256 p vvvv dst src => Sys2Proof.Machine.execVpmovsxbd256 p vvvv dst src s
  | .vpmovsxbq256 p vvvv dst src => Sys2Proof.Machine.execVpmovsxbq256 p vvvv dst src s
  | .vpmovsxwd256 p vvvv dst src => Sys2Proof.Machine.execVpmovsxwd256 p vvvv dst src s
  | .vpmovsxwq256 p vvvv dst src => Sys2Proof.Machine.execVpmovsxwq256 p vvvv dst src s
  | .vpmovsxdq256 p vvvv dst src => Sys2Proof.Machine.execVpmovsxdq256 p vvvv dst src s

end Sys2Proof.Machine
end

