-- ==== Sys2Proof/Machine/Fetch.lean ====
section
/-!
DEFINITION. Fetching an instruction's bytes (30_encoding.md R60; 10_state.md R25), and the launch by which a
program comes to run (70_reset_and_hazards.md R162, R163; log 10).
-/

namespace Sys2Proof.Machine

/-- The bytes the decoder sees: from `pc` upwards, at most as many as the longest instruction has, as far as
memory lists them (R31, R60; log 22). -/
def State.fetch (s : State) (m : Mode) : List Byte := fetchBytes s.mem m s.pc Config.maxInstrLen

/-- An instruction of `len` bytes at `pc` wraps past the top of the address space (R25, D12). -/
def wrapsPastTop (m : Mode) (pc : Addr) (len : Nat) : Bool :=
  match m with
  | .mode64 => 2 ^ 64 < pc.toNat + len
  | .mode32 => 2 ^ 32 < (pc.setWidth 32).toNat + len

/-- What software outside the scope does before a form can execute (R162 steps 1, 3, 4, 6 and 7): 64-bit mode,
CR0.EM and CR0.TS clear, CR4.OSFXSR and CR4.OSXSAVE set, XCR0 = 7; and the launch memory's operand bytes (step
8): sixteen zero bytes at the address 0 that a base register's reset value gives. A state that is already in one
of the two modes is left as it is. -/
def State.boot (s : State) : State :=
  if s.mode?.isSome then s
  else
    { s with
      opMode := .protectedMode
      lma := true
      csL := true
      cr0 := s.cr0 &&& ~~~(0xC#64)
      cr4 := s.cr4 ||| 0x40200#64
      xcr0 := 7#64
      mem := s.mem.writeBytes .mode64 0#64 (List.replicate 16 0#8) }

/-- Load bytes into memory where the next step fetches its instruction (R24: `pc` is the linear address of its
first byte). -/
def State.loadAtPc (s : State) (bs : List Byte) : State :=
  { s with mem := s.mem.writeBytes (s.mode?.getD .mode64) s.pc bs }

end Sys2Proof.Machine
end

