-- ==== Sys2Proof/Machine/Step.lean ====
section
/-!
DEFINITION. One step (70_reset_and_hazards.md R163): decode the bytes at `pc` and execute the form. The modes of
D20 are refused before decoding, since decoding depends on the mode.
-/

namespace Sys2Proof.Machine

/-- One step of the machine. -/
def step (s : State) : Host.Outcome State Fault Refusal :=
  match s.mode? with
  | none => .refused .unsupportedMode
  | some m =>
    match decode m (s.fetch m) with
    | .insn i _ => if wrapsPastTop m s.pc i.len then .refused .fetchWraps else exec i s
    | .refused r => .refused (.decoder r)
    | .notInScope => .refused .notInScope

/-- The launch (log 10) with a word of the opcode table, and zero bytes after it, stored at `pc`. -/
def State.withFetchWord (s : State) (nbits w : Nat) : State := s.boot.loadAtPc (tableBytes nbits w)

end Sys2Proof.Machine
end

