-- ==== Sys2Proof/Safety.lean ====
section
/-!
DEFINITION. The terms the statements use: when a form is ready to execute, what it leaves unchanged, the shape the
rules R107 to R124 share, the machine's invariant, and a run and its end (70_reset_and_hazards.md R163).
-/

namespace Sys2Proof.Safety

open Sys2Proof.Machine

/-! ## Frames -/

/-- Everything but the vector registers and `pc` is the same, memory read byte by byte (R33). -/
def SameButVectorsAndPc (s t : State) : Prop :=
  t.x = s.x ∧ t.fsbase = s.fsbase ∧ t.gsbase = s.gsbase ∧ t.eflags = s.eflags ∧ t.mxcsr = s.mxcsr
    ∧ t.cr0 = s.cr0 ∧ t.cr4 = s.cr4 ∧ t.xcr0 = s.xcr0 ∧ t.opMode = s.opMode ∧ t.lma = s.lma ∧ t.csL = s.csL
    ∧ t.csD = s.csD ∧ t.cpl = s.cpl ∧ t.featSse41 = s.featSse41 ∧ t.featAvx = s.featAvx
    ∧ t.featAvx2 = s.featAvx2 ∧ t.law = s.law ∧ t.segs = s.segs ∧ t.paging = s.paging ∧ t.pages = s.pages
    ∧ ∀ a, t.mem.read a = s.mem.read a

/-- Every vector register but one is the same, and so is everything else but `pc` (R22, R33). -/
def SameButDst (dst : RegNum) (s t : State) : Prop :=
  (∀ r, r ≠ dst → t.ymmGet r = s.ymmGet r) ∧ SameButVectorsAndPc s t

/-! ## The `#UD` conditions as R130 to R132 list them -/

/-- A legacy form raises `#UD` (R131, R132). -/
def LegacyUd (p : LegacyPrefixes) (s : State) : Prop :=
  s.featSse41 = false ∨ s.cr0.getLsbD 2 = true ∨ s.cr4.getLsbD 9 = false ∨ p.lock = true

/-- The `#UD` conditions on a VEX form's bytes (R130, R132). -/
def VexBytesUd (p : VexPrefixes) (vvvv : BitVec 4) : Prop :=
  vvvv ≠ 15#4 ∨ p.group1 ≠ none ∨ p.opSize = true ∨ p.rex = true

/-- `Env.os_avx` is false (R29). -/
def OsAvxOff (s : State) : Prop :=
  s.cr4.getLsbD 18 = false ∨ s.xcr0.getLsbD 1 = false ∨ s.xcr0.getLsbD 2 = false

/-- A VEX.128 form raises `#UD` (R130 to R132). -/
def Vex128Ud (p : VexPrefixes) (vvvv : BitVec 4) (s : State) : Prop :=
  VexBytesUd p vvvv ∨ s.featAvx = false ∨ OsAvxOff s

/-- A VEX.256 form raises `#UD` (R130 to R132; C1). -/
def Vex256Ud (p : VexPrefixes) (vvvv : BitVec 4) (s : State) : Prop :=
  VexBytesUd p vvvv ∨ s.featAvx2 = false ∨ OsAvxOff s

/-- An instruction raises `#UD` (R130 to R132). -/
def RaisesUd (i : Instr) (s : State) : Prop :=
  match i.view with
  | .legacy _ p _ _ => LegacyUd p s
  | .vex false _ p vvvv _ _ => Vex128Ud p vvvv s
  | .vex true _ p vvvv _ _ => Vex256Ud p vvvv s

/-- One of the exceptions of a memory-source form (R134 to R137). -/
def MemoryFault (f : Fault) : Prop := f = .ss ∨ f = .gp ∨ f = .ac ∨ ∃ code linear, f = .pf code linear

/-! ## The shape of the instruction rules -/

/-- What a form does in a supported mode when its `#UD` condition is `ud` and its source reads as `read` (R100):
`#UD`, else `#NM`, else it stops as the source does, which only a memory source can, else it completes, as
`completes` says of the source's value and the next state. -/
def Behaves (out : Host.Outcome State Fault Refusal) (ud : Prop) (src : Source)
    (read : Host.Outcome Xmm Fault Refusal) (s : State) (completes : Xmm → State → Prop) : Prop :=
  (ud → out = .fault .ud)
    ∧ (¬ ud → s.cr0.getLsbD 3 = true → out = .fault .nm)
    ∧ (¬ ud → s.cr0.getLsbD 3 = false →
        (∀ f, read = .fault f → out = .fault f ∧ MemoryFault f ∧ ∃ o, src = .mem o)
          ∧ (∀ r, read = .refused r → out = .refused r ∧ ∃ o, src = .mem o)
          ∧ ∀ v, read = .next v → ∃ t, out = .next t ∧ completes v t)

/-- A legacy form without a prefix beside its `66H`. -/
def plainLegacy : LegacyPrefixes := ⟨false, none, false, .absent⟩

/-- A VEX form without a prefix. -/
def plainVex : VexPrefixes := ⟨none, none, false, false, false⟩

/-- The rule of a legacy form (R107 to R112): its encoding `66 0F 38 op /r`, its exceptions, and its operation:
`lanes` relates the source's value to the destination, whose bits 255:128 are unchanged. -/
def LegacyRule (form : LegacyPrefixes → RegNum → Source → Instr) (op : Byte) (memBytes : Nat)
    (lanes : Xmm → Ymm → Prop) : Prop :=
  (∀ dst src, ∃ modrm tail,
      encode (form plainLegacy dst src) = [0x66#8, 0x0F#8, 0x38#8, op, modrm] ++ tail)
    ∧ ∀ p dst src s m, s.mode? = some m →
      Behaves (exec (form p dst src) s) (LegacyUd p s) src
        (s.readSource m p.seg p.addrSize memBytes (legacyLen p src) src) s
        fun v t =>
          lanes v (t.ymmGet dst)
            ∧ (t.ymmGet dst).extractLsb' 128 128 = (s.ymmGet dst).extractLsb' 128 128
            ∧ t.pc = nextPc m s.pc (legacyLen p src)
            ∧ SameButDst dst s t

/-- The rule of a VEX form: its encoding `VEX.128` or `VEX.256` `.66.0F38.WIG op /r`, its exceptions, and its
operation: `lanes` relates the source's value to all bits of the destination. -/
def VexRule (wide : Bool) (form : VexPrefixes → BitVec 4 → RegNum → Source → Instr) (op : Byte)
    (memBytes : Nat) (ud : VexPrefixes → BitVec 4 → State → Prop) (lanes : Xmm → Ymm → Prop) : Prop :=
  (∀ dst src, ∃ b1 b2 modrm tail,
      encode (form plainVex 15#4 dst src) = [0xC4#8, b1, b2, op, modrm] ++ tail
        ∧ b1.extractLsb' 0 5 = 2#5 ∧ b2.getLsbD 2 = wide ∧ b2.extractLsb' 0 2 = 1#2)
    ∧ ∀ p vvvv dst src s m, s.mode? = some m →
      Behaves (exec (form p vvvv dst src) s) (ud p vvvv s) src
        (s.readSource m p.seg p.addrSize memBytes (vexLen p src) src) s
        fun v t =>
          lanes v (t.ymmGet dst)
            ∧ t.pc = nextPc m s.pc (vexLen p src)
            ∧ SameButDst dst s t

/-- The rule of a VEX.128 form (R113 to R118): the destination's bits 255:128 are zeroed. -/
def Vex128Rule (form : VexPrefixes → BitVec 4 → RegNum → Source → Instr) (op : Byte) (memBytes : Nat)
    (lanes : Xmm → Ymm → Prop) : Prop :=
  VexRule false form op memBytes Vex128Ud fun v r => lanes v r ∧ r.extractLsb' 128 128 = 0#128

/-- The rule of a VEX.256 form (R119 to R124). -/
def Vex256Rule (form : VexPrefixes → BitVec 4 → RegNum → Source → Instr) (op : Byte) (memBytes : Nat)
    (lanes : Xmm → Ymm → Prop) : Prop :=
  VexRule true form op memBytes Vex256Ud lanes

/-- Elements 0 to `k`-1 of width `m` are the sign extensions of the source's elements of width `n` (R98). -/
def Extends (n m k : Nat) (v : Xmm) (r : Ymm) : Prop :=
  ∀ i, i < k → element m i r = (element n i v).signExtend m

/-! ## Prefixes -/

/-- Two prefixes stand in one group, or are one prefix repeated (R62). -/
def sameGroup : PrefixByte → PrefixByte → Bool
  | .group1 _, .group1 _ => true
  | .seg _, .seg _ => true
  | .opSize, .opSize => true
  | .addrSize, .addrSize => true
  | .rex _, .rex _ => true
  | _, _ => false

/-- Two of the prefix bytes stand in one group (R62, U4). -/
def HasRedundant (m : Mode) (pre : List Byte) : Prop :=
  ¬ (pre.filterMap (prefixOfByte m)).Pairwise fun p q => sameGroup p q = false

/-- Every byte is a prefix in the mode (R62, R63). -/
def AllPrefixes (m : Mode) (pre : List Byte) : Prop := ∀ b ∈ pre, (prefixOfByte m b).isSome = true

/-! ## The operand's tables -/

/-- Bytes of a memory operand (R43). -/
def operandSize : Enc → Op → Nat
  | .vex256, .bw => 16
  | .vex256, .bd => 8
  | .vex256, .bq => 4
  | .vex256, .wd => 16
  | .vex256, .wq => 8
  | .vex256, .dq => 16
  | _, .bw => 8
  | _, .bd => 4
  | _, .bq => 2
  | _, .wd => 8
  | _, .wq => 4
  | _, .dq => 8

/-- Width of a source element (R68). -/
def sourceWidth : Op → Nat
  | .bw => 8
  | .bd => 8
  | .bq => 8
  | .wd => 16
  | .wq => 16
  | .dq => 32

/-- Width of a destination element (R68). -/
def destWidth : Op → Nat
  | .bw => 16
  | .bd => 32
  | .bq => 64
  | .wd => 32
  | .wq => 64
  | .dq => 64

/-- Bits of the destination that hold elements (R22, R69). -/
def elementBits : Enc → Nat
  | .legacy => 128
  | .vex128 => 128
  | .vex256 => 256

/-- The destination holds the sign-extended elements of the source's value, as many as fit (R98 to R106). -/
def HoldsExtended (i : Instr) (v : Xmm) (r : Ymm) : Prop :=
  Extends (sourceWidth i.op) (destWidth i.op) (elementBits i.enc / destWidth i.op) v r

/-- The segment override of an instruction. -/
def segOverride (i : Instr) : Option SegReg :=
  match i.view with
  | .legacy _ p _ _ => p.seg
  | .vex _ _ p _ _ _ => p.seg

/-- The `67H` prefix of an instruction. -/
def has67 (i : Instr) : Bool :=
  match i.view with
  | .legacy _ p _ _ => p.addrSize
  | .vex _ _ p _ _ _ => p.addrSize

/-- The effective address of the memory operand `o` of `i` (R71 to R75). -/
def operandEa (i : Instr) (m : Mode) (s : State) (o : MemOperand) : Addr :=
  s.effectiveAddr m (has67 i) i.len o

/-- The segment the memory operand `o` of `i` uses (R74). -/
def operandSeg (i : Instr) (m : Mode) (o : MemOperand) : SegReg := segmentOf m (segOverride i) o

/-- The linear address of the memory operand `o` of `i` (R76). -/
def operandLin (i : Instr) (m : Mode) (s : State) (o : MemOperand) : Addr :=
  s.linearAddr m (operandSeg i m o) (operandEa i m s o)

/-- The instruction has a memory source `o`, the mode is `m`, and neither `#UD` nor `#NM` is raised: its memory
operand is looked at (R100 step 3). -/
def ReachesOperand (i : Instr) (m : Mode) (s : State) (o : MemOperand) : Prop :=
  i.src = .mem o ∧ s.mode? = some m ∧ ¬ RaisesUd i s ∧ s.cr0.getLsbD 3 = false

/-! ## The operand's address in integers (R71 to R76) -/

/-- The address size in bits (30_encoding.md section 3). -/
def addrBits : Mode → Bool → Nat
  | .mode64, false => 64
  | .mode64, true => 32
  | .mode32, false => 32
  | .mode32, true => 16

/-- The width of a linear address in bits (R31). -/
def linearBits : Mode → Nat
  | .mode64 => 64
  | .mode32 => 32

/-- A general register read at `w` bits, as a number. -/
def regAt (s : State) (w : Nat) (r : RegNum) : Int := ((s.gpr r).toNat % 2 ^ w : Nat)

/-- A displacement as a number (R70). -/
def dispInt : Disp → Int
  | .none => 0
  | .disp8 d => d.toInt
  | .disp32 d => d.toInt

/-- A displacement of 16-bit addressing as a number (R70). -/
def disp16Int : Disp16 → Int
  | .none => 0
  | .disp8 d => d.toInt
  | .disp16 d => d.toNat

/-- The index of a `SIB` byte as a number, zero for index number 4 (R72). -/
def indexAt (s : State) (w : Nat) (scale : BitVec 2) (index : RegNum) : Int :=
  if index = 4#4 then 0 else regAt s w index * 2 ^ scale.toNat

/-- The registers of R75's table as a number: BX is 3, BP 5, SI 6, DI 7. -/
def base16At (s : State) : Base16 → Int
  | .bxSi => regAt s 16 3#4 + regAt s 16 6#4
  | .bxDi => regAt s 16 3#4 + regAt s 16 7#4
  | .bpSi => regAt s 16 5#4 + regAt s 16 6#4
  | .bpDi => regAt s 16 5#4 + regAt s 16 7#4
  | .si => regAt s 16 6#4
  | .di => regAt s 16 7#4
  | .bp => regAt s 16 5#4
  | .bx => regAt s 16 3#4

/-- The base of a segment as a number (R23, R74). -/
def baseAt (s : State) (m : Mode) (r : SegReg) : Nat :=
  match r, m with
  | .fs, _ => s.fsbase.toNat
  | .gs, _ => s.gsbase.toNat
  | _, .mode64 => 0
  | .es, .mode32 => s.segs.esBase.toNat
  | .cs, .mode32 => s.segs.csBase.toNat
  | .ss, .mode32 => s.segs.ssBase.toNat
  | .ds, .mode32 => s.segs.dsBase.toNat

/-- `LAW` as a number (R49). -/
def lawBits : Law → Nat
  | .law48 => 48
  | .law57 => 57

/-- A canonical address as a number: in the lower or the upper 2^(LAW-1) addresses (R49). -/
def CanonicalNumber (law : Law) (a : Nat) : Prop :=
  a < 2 ^ (lawBits law - 1) ∨ 2 ^ 64 - 2 ^ (lawBits law - 1) ≤ a

/-- The address of byte `k` of the memory operand `o` of `i` (R41). -/
def operandByte (i : Instr) (m : Mode) (s : State) (o : MemOperand) (k : Nat) : Addr :=
  wrapAddr m (operandLin i m s o + BitVec.ofNat 64 k)

/-- The number of bytes of the memory operand of `i` (R43). -/
def operandBytesOf (i : Instr) : Nat := operandSize i.enc i.op

/-- A read of a byte at `a` faults in its page (R136). -/
def PageFaultsAt (s : State) (a : Addr) : Prop :=
  pageKindAt s.pages a = .notPresent ∨ pageKindAt s.pages a = .reservedBit
    ∨ (pageKindAt s.pages a = .supervisor ∧ s.cpl = 3#2)

/-- In 64-bit mode a byte of the operand is not canonical; in 32-bit mode a byte is outside the segment's limit, or
a segment other than SS is null or not readable (R134, R135). -/
def SegmentCheckFails (i : Instr) (m : Mode) (s : State) (o : MemOperand) : Prop :=
  match m with
  | .mode64 => ∃ k, k < operandBytesOf i ∧ ¬ CanonicalNumber s.law (operandByte i .mode64 s o k).toNat
  | .mode32 =>
    (∃ k, k < operandBytesOf i ∧
        ∃ r ∈ (s.segDesc (operandSeg i .mode32 o)).limit,
          (operandEa i .mode32 s o).toNat + k < r.lowest.toNat
            ∨ r.highest.toNat < (operandEa i .mode32 s o).toNat + k)
      ∨ (operandSeg i .mode32 o ≠ .ss ∧
        ((s.segDesc (operandSeg i .mode32 o)).isNull = true
          ∨ (s.segDesc (operandSeg i .mode32 o)).readable = false))

/-- A byte of the operand lies in a page that faults (R136). -/
def PageCheckFails (i : Instr) (m : Mode) (s : State) (o : MemOperand) : Prop :=
  s.paging = true ∧ ∃ k, k < operandBytesOf i ∧ PageFaultsAt s (operandByte i m s o k)

/-- Alignment checking is in force and the operand is misaligned (R29, R46). -/
def AlignmentCheckFails (i : Instr) (m : Mode) (s : State) (o : MemOperand) : Prop :=
  s.cr0.getLsbD 18 = true ∧ s.eflags.getLsbD 18 = true ∧ s.cpl = 3#2
    ∧ (operandLin i m s o).toNat % operandBytesOf i ≠ 0

/-- Every byte of the operand is ordinary memory (R48). -/
def OperandListed (i : Instr) (m : Mode) (s : State) (o : MemOperand) : Prop :=
  ∀ k, k < operandBytesOf i → s.mem.read (operandByte i m s o k).toNat ≠ none

/-- The outcome with a change made to its next state. -/
def mapNext (f : State → State) : Host.Outcome State Fault Refusal → Host.Outcome State Fault Refusal
  | .next t => .next (f t)
  | .fault e => .fault e
  | .refused r => .refused r

/-! ## The invariant -/

/-- Memory is in canonical form, and in 32-bit mode `pc` is a 32-bit address (R24, R25). -/
def StateInv (s : State) : Prop :=
  s.mem.wf = true ∧ (s.mode? = some .mode32 → s.pc.toNat < 2 ^ 32)

/-! ## A run and its end -/

/-- A program: a finite byte string at a base address (R163). -/
structure Program where
  base : Addr
  bytes : List Byte
  deriving DecidableEq, Repr

/-- The program's bytes are in memory where it says (R163, D18). -/
def Program.loaded (g : Program) (m : Mode) (s : State) : Bool :=
  fetchBytes s.mem m g.base g.bytes.length == g.bytes

/-- The run ends successfully: `pc` equals the base plus the program's length (R163, D19), each modulo the mode's
address width (R24, R25). Outside the two modes a run is refused (D20). -/
def Program.atEnd (g : Program) (s : State) : Bool :=
  match s.mode? with
  | some m => wrapAddr m s.pc == nextPc m g.base g.bytes.length
  | none => false

/-- A run's outcome (R163). -/
inductive RunOutcome where
  /-- It ended successfully in a state. -/
  | ended (s : State)
  /-- A step raised an exception, in a state. -/
  | fault (f : Fault) (s : State)
  /-- A step was refused, in a state. -/
  | refused (r : Refusal) (s : State)
  /-- It did not end within the steps given. -/
  | running (s : State)
  deriving DecidableEq, Repr

/-- Run a program for at most a number of steps (R163). -/
def Program.run (g : Program) : Nat → State → RunOutcome
  | 0, s => if g.atEnd s then .ended s else .running s
  | k + 1, s =>
    if g.atEnd s then .ended s
    else
      match step s with
      | .next t => g.run k t
      | .fault f => .fault f s
      | .refused r => .refused r s

end Sys2Proof.Safety
end

