-- ==== Sys2Proof/Certificates/Slice0/Obligations.lean ====
section
/-!
DEFINITION. The statements for the provers. Each is a rule of the spec, or follows from rules of the spec; the
docstring says which.
-/

open Sys2Proof
open Sys2Proof.Machine
open Sys2Proof.Safety

/-- R107: `PMOVSXBW xmm1, xmm2/m64`. -/
def Obligations.PmovsxbwExtendsEightBytesToWords : Prop :=
  LegacyRule .pmovsxbw 0x20#8 8 (Extends 8 16 8)

/-- R108: `PMOVSXBD xmm1, xmm2/m32`. -/
def Obligations.PmovsxbdExtendsFourBytesToDwords : Prop :=
  LegacyRule .pmovsxbd 0x21#8 4 (Extends 8 32 4)

/-- R109: `PMOVSXBQ xmm1, xmm2/m16`. -/
def Obligations.PmovsxbqExtendsTwoBytesToQwords : Prop :=
  LegacyRule .pmovsxbq 0x22#8 2 (Extends 8 64 2)

/-- R110: `PMOVSXWD xmm1, xmm2/m64`. -/
def Obligations.PmovsxwdExtendsFourWordsToDwords : Prop :=
  LegacyRule .pmovsxwd 0x23#8 8 (Extends 16 32 4)

/-- R111: `PMOVSXWQ xmm1, xmm2/m32`. -/
def Obligations.PmovsxwqExtendsTwoWordsToQwords : Prop :=
  LegacyRule .pmovsxwq 0x24#8 4 (Extends 16 64 2)

/-- R112: `PMOVSXDQ xmm1, xmm2/m64`. -/
def Obligations.PmovsxdqExtendsTwoDwordsToQwords : Prop :=
  LegacyRule .pmovsxdq 0x25#8 8 (Extends 32 64 2)

/-- R113: `VPMOVSXBW xmm1, xmm2/m64`. -/
def Obligations.Vpmovsxbw128ExtendsEightBytesToWords : Prop :=
  Vex128Rule .vpmovsxbw128 0x20#8 8 (Extends 8 16 8)

/-- R114: `VPMOVSXBD xmm1, xmm2/m32`. -/
def Obligations.Vpmovsxbd128ExtendsFourBytesToDwords : Prop :=
  Vex128Rule .vpmovsxbd128 0x21#8 4 (Extends 8 32 4)

/-- R115: `VPMOVSXBQ xmm1, xmm2/m16`. -/
def Obligations.Vpmovsxbq128ExtendsTwoBytesToQwords : Prop :=
  Vex128Rule .vpmovsxbq128 0x22#8 2 (Extends 8 64 2)

/-- R116: `VPMOVSXWD xmm1, xmm2/m64`. -/
def Obligations.Vpmovsxwd128ExtendsFourWordsToDwords : Prop :=
  Vex128Rule .vpmovsxwd128 0x23#8 8 (Extends 16 32 4)

/-- R117: `VPMOVSXWQ xmm1, xmm2/m32`. -/
def Obligations.Vpmovsxwq128ExtendsTwoWordsToQwords : Prop :=
  Vex128Rule .vpmovsxwq128 0x24#8 4 (Extends 16 64 2)

/-- R118: `VPMOVSXDQ xmm1, xmm2/m64`. -/
def Obligations.Vpmovsxdq128ExtendsTwoDwordsToQwords : Prop :=
  Vex128Rule .vpmovsxdq128 0x25#8 8 (Extends 32 64 2)

/-- R119: `VPMOVSXBW ymm1, xmm2/m128`. -/
def Obligations.Vpmovsxbw256ExtendsSixteenBytesToWords : Prop :=
  Vex256Rule .vpmovsxbw256 0x20#8 16 (Extends 8 16 16)

/-- R120: `VPMOVSXBD ymm1, xmm2/m64`. -/
def Obligations.Vpmovsxbd256ExtendsEightBytesToDwords : Prop :=
  Vex256Rule .vpmovsxbd256 0x21#8 8 (Extends 8 32 8)

/-- R121: `VPMOVSXBQ ymm1, xmm2/m32`. -/
def Obligations.Vpmovsxbq256ExtendsFourBytesToQwords : Prop :=
  Vex256Rule .vpmovsxbq256 0x22#8 4 (Extends 8 64 4)

/-- R122: `VPMOVSXWD ymm1, xmm2/m128`. -/
def Obligations.Vpmovsxwd256ExtendsEightWordsToDwords : Prop :=
  Vex256Rule .vpmovsxwd256 0x23#8 16 (Extends 16 32 8)

/-- R123: `VPMOVSXWQ ymm1, xmm2/m64`. -/
def Obligations.Vpmovsxwq256ExtendsFourWordsToQwords : Prop :=
  Vex256Rule .vpmovsxwq256 0x24#8 8 (Extends 16 64 4)

/-- R124: `VPMOVSXDQ ymm1, xmm2/m128`. -/
def Obligations.Vpmovsxdq256ExtendsFourDwordsToQwords : Prop :=
  Vex256Rule .vpmovsxdq256 0x25#8 16 (Extends 32 64 4)

/-- 30_encoding.md R60 to R78: no bit of an encoding is dropped. -/
def Obligations.DecodeOfEncodeIsTheInstruction : Prop :=
  ∀ (m : Mode) (i : Instr) (rest : List Byte), i.wellFormed m = true →
    decode m (encode i ++ rest) = .insn i rest

/-- R20, R63, R64, R67, R77. -/
def Obligations.DecodedInstructionsAreWellFormed : Prop :=
  ∀ (m : Mode) (bs : List Byte) (i : Instr) (rest : List Byte),
    decode m bs = .insn i rest → i.wellFormed m = true

/-- R78, R84; the bound of 15 for forms that raise `#UD` on their prefixes is counted from R62. -/
def Obligations.DecodeConsumesTheLength : Prop :=
  ∀ (m : Mode) (bs : List Byte) (i : Instr) (rest : List Byte), decode m bs = .insn i rest →
    bs.length = i.len + rest.length ∧ 5 ≤ i.len ∧ i.len ≤ 15
      ∧ (i.udByBytes = false → i.enc = .legacy → i.len ≤ 13)
      ∧ (i.udByBytes = false → i.enc ≠ .legacy → i.len ≤ 12)

/-- 95_test_vectors.md section 3. -/
def Obligations.WrittenOutWordsDecode : Prop :=
  decode .mode64 [0x66#8, 0x0F#8, 0x38#8, 0x20#8, 0xCA#8] = .insn (.pmovsxbw plainLegacy 1#4 (.reg 2#4)) []
    ∧ decode .mode64 [0xC4#8, 0xE2#8, 0xF9#8, 0x20#8, 0xCA#8]
        = .insn (.vpmovsxbw128 plainVex 15#4 1#4 (.reg 2#4)) []
    ∧ decode .mode64 [0xC4#8, 0xE2#8, 0x7D#8, 0x25#8, 0xCA#8]
        = .insn (.vpmovsxdq256 plainVex 15#4 1#4 (.reg 2#4)) []
    ∧ decode .mode64 [0x66#8, 0x0F#8, 0x38#8, 0x22#8, 0xAC#8, 0x8B#8, 0x00#8, 0x01#8, 0x00#8, 0x00#8]
        = .insn (.pmovsxbq plainLegacy 5#4 (.mem (.sib 2#2 1#4 3#4 (.disp32 0x100#32)))) []
    ∧ decode .mode64 [0x66#8, 0x45#8, 0x0F#8, 0x38#8, 0x20#8, 0xCA#8]
        = .insn (.pmovsxbw ⟨false, none, false, .effective⟩ 9#4 (.reg 10#4)) []
    ∧ decode .mode32 [0x67#8, 0x66#8, 0x0F#8, 0x38#8, 0x24#8, 0x58#8, 0x02#8]
        = .insn (.pmovsxwq ⟨false, none, true, .absent⟩ 3#4 (.mem (.base16 .bxSi (.disp8 2#8)))) []

/-- R63, R64, R79 (rows `W`), U2, D22. -/
def Obligations.WidthBitsAreIgnored : Prop :=
  (∀ (m : Mode) (pre : List Byte) (b1 b2 : Byte) (bs : List Byte),
      (∀ b ∈ pre, (prefixOfByte m b).isSome = true) →
      decode m (pre ++ 0xC4#8 :: b1 :: (b2 ^^^ 0x80#8) :: bs) = decode m (pre ++ 0xC4#8 :: b1 :: b2 :: bs))
    ∧ ∀ (pre : List Byte) (wrxb : BitVec 4) (bs : List Byte),
      (∀ b ∈ pre, (prefixOfByte .mode64 b).isSome = true) →
      decode .mode64 (pre ++ (4#4 ++ (wrxb ^^^ 8#4)) :: 0x0F#8 :: bs)
        = decode .mode64 (pre ++ (4#4 ++ wrxb) :: 0x0F#8 :: bs)

/-- R60, R61, R66, R77, R79, R80, U5. That this answer stands before a refusal of the prefixes is log 21's (DEDUCED), and that bytes which end inside a form are not in scope is log 22's (DEDUCED). -/
def Obligations.BytesOutsideThePatternsAreNotInScope : Prop :=
  (∀ (m : Mode) (pre : List Byte), AllPrefixes m pre →
      (∀ (b : Byte) (bs : List Byte), prefixOfByte m b = none → b ≠ 0x0F#8 → b ≠ 0xC4#8 →
          decode m (pre ++ b :: bs) = .notInScope)
        ∧ (∀ bs : List Byte, decode m (pre ++ 0xC5#8 :: bs) = .notInScope)
        ∧ (∀ (b : Byte) (bs : List Byte), b ≠ 0x38#8 → decode m (pre ++ 0x0F#8 :: b :: bs) = .notInScope)
        ∧ (0x66#8 ∉ pre → ∀ bs : List Byte, decode m (pre ++ 0x0F#8 :: bs) = .notInScope)
        ∧ (∀ (op : Byte) (bs : List Byte), op.toNat < 0x20 ∨ 0x25 < op.toNat →
            decode m (pre ++ 0x0F#8 :: 0x38#8 :: op :: bs) = .notInScope)
        ∧ (∀ (b1 b2 op : Byte) (bs : List Byte), op.toNat < 0x20 ∨ 0x25 < op.toNat →
            decode m (pre ++ 0xC4#8 :: b1 :: b2 :: op :: bs) = .notInScope)
        ∧ (∀ (b1 b2 : Byte) (bs : List Byte), b1.extractLsb' 0 5 ≠ 2#5 ∨ b2.extractLsb' 0 2 ≠ 1#2 →
            decode m (pre ++ 0xC4#8 :: b1 :: b2 :: bs) = .notInScope)
        ∧ decode m pre = .notInScope
        ∧ (m = .mode32 →
            (∀ (b : Byte) (bs : List Byte), field76 b ≠ 3#2 → decode m (pre ++ 0xC4#8 :: b :: bs) = .notInScope)
              ∧ ∀ (wrxb : BitVec 4) (bs : List Byte), decode m (pre ++ (4#4 ++ wrxb) :: bs) = .notInScope))
    ∧ ∀ (m : Mode) (bs : List Byte) (i : Instr) (rest : List Byte), decode m bs = .insn i rest →
        ∀ k, k < i.len → decode m (bs.take k) = .notInScope

/-- R62, U3, U4, D21. That a form which LOCK or a VEX form's prefix would make raise `#UD` too is refused is log 34's (DESIGN CHOICE); which of two reasons to refuse is named is log 21's (DEDUCED); that a second REX byte is a repeated prefix is log 19's (DEDUCED). -/
def Obligations.RedundantPrefixesAreRefused : Prop :=
  (∀ (m : Mode) (o : Op) (p : LegacyPrefixes) (dst : RegNum) (src : Source) (rest : List Byte),
      (Instr.legacy o p dst src).wellFormed m = true →
      decode m (0x66#8 :: (encode (.legacy o p dst src) ++ rest)) = .refused .repeatedPrefix
        ∧ ∀ b, b = 0xF2#8 ∨ b = 0xF3#8 →
          decode m (b :: (encode (.legacy o p dst src) ++ rest))
            = .refused (if p.lock then .repeatedPrefix else .repBeforeLegacy))
    ∧ ∀ (m : Mode) (pre0 pre : List Byte) (b0 : Byte) (body : List Byte) (i : Instr) (rest : List Byte),
        AllPrefixes m pre0 → AllPrefixes m pre → prefixOfByte m b0 = none →
        decode m (pre0 ++ b0 :: body) = .insn i rest →
        (0x67#8 ∈ pre ↔ 0x67#8 ∈ pre0) → (i.enc = .legacy → 0x66#8 ∈ pre) →
        (HasRedundant m pre → decode m (pre ++ b0 :: body) = .refused .repeatedPrefix)
          ∧ (¬ HasRedundant m pre → i.enc = .legacy → 0xF2#8 ∈ pre ∨ 0xF3#8 ∈ pre →
              decode m (pre ++ b0 :: body) = .refused .repBeforeLegacy)

/-- R130, R131, R132. The modes in which R131 says the model refuses before are those `mode?` gives none for. -/
def Obligations.InvalidOpcodeExactlyWhenListed : Prop :=
  ∀ (i : Instr) (s : State) (m : Mode), s.mode? = some m → (exec i s = .fault .ud ↔ RaisesUd i s)

/-- R133. -/
def Obligations.DeviceNotAvailableExactlyWhenTaskSwitched : Prop :=
  ∀ (i : Instr) (s : State) (m : Mode), s.mode? = some m →
    (exec i s = .fault .nm ↔ ¬ RaisesUd i s ∧ s.cr0.getLsbD 3 = true)

/-- R29 (row `mode`), D20. That the refusal comes first is log 2's (DEDUCED). -/
def Obligations.OtherModesAreRefused : Prop :=
  ∀ s : State,
    (s.opMode ≠ .protectedMode ∨ ((s.lma = false ∨ s.csL = false) ∧ s.csD = false)) →
    (∀ i : Instr, exec i s = .refused .unsupportedMode) ∧ step s = .refused .unsupportedMode

/-- R33 (frame), R22, R25. -/
def Obligations.CompletedFormsChangeOnlyDestinationAndPc : Prop :=
  ∀ (i : Instr) (s t : State), exec i s = .next t →
    SameButDst i.dst s t
      ∧ ∃ m, s.mode? = some m ∧ t.pc.toNat = (s.pc.toNat + i.len) % 2 ^ linearBits m

/-- R44. -/
def Obligations.NoFormWritesMemory : Prop :=
  ∀ (i : Instr) (s : State),
    (∀ t, exec i s = .next t → ∀ a, t.mem.read a = s.mem.read a)
      ∧ ∀ (j : RegNum) (mem : Memory), i.src = .reg j →
        exec i { s with mem := mem } = mapNext (fun t => { t with mem := mem }) (exec i s)

/-- R26. -/
def Obligations.FlagsNeitherReadNorWritten : Prop :=
  ∀ (i : Instr) (s : State),
    (∀ t, exec i s = .next t → t.eflags = s.eflags)
      ∧ ∀ f : BitVec 64, f.getLsbD 18 = s.eflags.getLsbD 18 →
        exec i { s with eflags := f } = mapNext (fun t => { t with eflags := f }) (exec i s)

/-- R27. -/
def Obligations.MxcsrNeitherReadNorWritten : Prop :=
  ∀ (i : Instr) (s : State),
    (∀ t, exec i s = .next t → t.mxcsr = s.mxcsr)
      ∧ ∀ c : BitVec 32, exec i { s with mxcsr := c } = mapNext (fun t => { t with mxcsr := c }) (exec i s)

/-- R145. -/
def Obligations.NoFormIsPrivileged : Prop :=
  ∀ (i : Instr) (s : State) (c : BitVec 2),
    ((∃ j, i.src = .reg j) ∨ (s.paging = false ∧ s.cr0.getLsbD 18 = false)) →
    exec i { s with cpl := c } = mapNext (fun t => { t with cpl := c }) (exec i s)

/-- R71, R72, and the 32-bit part of R75. -/
def Obligations.BaseAndSibAddressesAreSums : Prop :=
  ∀ (s : State) (m : Mode) (z : Bool) (len : Nat),
    (∀ (b : RegNum) (d : Disp), ((s.effectiveAddr m z len (.base b d)).toNat : Int)
        = (regAt s (addrBits m z) b + dispInt d) % 2 ^ addrBits m z)
      ∧ (∀ (sc : BitVec 2) (ix b : RegNum) (d : Disp), ((s.effectiveAddr m z len (.sib sc ix b d)).toNat : Int)
        = (regAt s (addrBits m z) b + indexAt s (addrBits m z) sc ix + dispInt d) % 2 ^ addrBits m z)
      ∧ ∀ (sc : BitVec 2) (ix : RegNum) (d : BitVec 32),
        ((s.effectiveAddr m z len (.sibNoBase sc ix d)).toNat : Int)
          = (indexAt s (addrBits m z) sc ix + d.toInt) % 2 ^ addrBits m z

/-- R73, and row `00b 101b` of R71. -/
def Obligations.RipRelativeAddressIsFromTheNextInstruction : Prop :=
  ∀ (s : State) (z : Bool) (len : Nat) (d : BitVec 32),
    ((s.effectiveAddr .mode64 z len (.disp32 d)).toNat : Int)
        = ((s.pc.toNat : Int) + len + d.toInt) % 2 ^ addrBits .mode64 z
      ∧ (s.effectiveAddr .mode32 false len (.disp32 d)).toNat = d.toNat

/-- R75. -/
def Obligations.SixteenBitAddressesFollowTheTable : Prop :=
  ∀ (s : State) (len : Nat),
    (∀ (b : Base16) (d : Disp16), ((s.effectiveAddr .mode32 true len (.base16 b d)).toNat : Int)
        = (base16At s b + disp16Int d) % 2 ^ 16)
      ∧ ∀ d : BitVec 16, (s.effectiveAddr .mode32 true len (.abs16 d)).toNat = d.toNat

/-- R74, R76. That an override without effect leaves the default segment in place is log 18's (DEDUCED); that Translate's bases are these fields is log 8's (DESIGN CHOICE). -/
def Obligations.SegmentsAreChosenAndAdded : Prop :=
  (∀ (m : Mode) (o : MemOperand), segmentOf m none o = .ss ↔
        ((∃ d, o = .base 5#4 d) ∨ (∃ sc ix d, o = .sib sc ix 4#4 d) ∨ (∃ sc ix d, o = .sib sc ix 5#4 d)
          ∨ (∃ d, o = .base16 .bpSi d) ∨ (∃ d, o = .base16 .bpDi d) ∨ ∃ d, o = .base16 .bp d))
    ∧ (∀ (m : Mode) (o : MemOperand), segmentOf m none o = .ss ∨ segmentOf m none o = .ds)
    ∧ (∀ (r : SegReg) (o : MemOperand), r ≠ .fs → r ≠ .gs →
        segmentOf .mode64 (some r) o = segmentOf .mode64 none o)
    ∧ (∀ (m : Mode) (r : SegReg) (o : MemOperand), r = .fs ∨ r = .gs ∨ m = .mode32 → segmentOf m (some r) o = r)
    ∧ ∀ (s : State) (m : Mode) (r : SegReg) (ea : Addr), (s.linearAddr m r ea).toNat
        = (ea.toNat + baseAt s m r) % 2 ^ linearBits m

/-- R41, R42. That the bytes' addresses are reduced modulo the address width is log 17's (DEDUCED). -/
def Obligations.OperandBytesAreLittleEndian : Prop :=
  ∀ (s : State) (m : Mode) (ov : Option SegReg) (z : Bool) (n len : Nat) (o : MemOperand) (v : Xmm),
    n ≤ 16 → s.readSource m ov z n len (.mem o) = .next v →
    (∀ k, k < n →
        s.mem.read (wrapAddr m (s.linearAddr m (segmentOf m ov o) (s.effectiveAddr m z len o)
          + BitVec.ofNat 64 k)).toNat = some (element 8 k v))
      ∧ v.toNat < 2 ^ (8 * n)

/-- R43 (D5), R48 (D9). That the ordinary addresses are the listed ones is log 9's (DESIGN CHOICE); that the bytes' addresses are reduced modulo the address width is log 17's (DEDUCED); what the checks of the second clause are rests on logs 8 and 29 (DESIGN CHOICE) and 16 and 31 (DEDUCED). -/
def Obligations.OnlyTheOperandsBytesAreRead : Prop :=
  ∀ (i : Instr) (m : Mode) (s : State) (o : MemOperand), ReachesOperand i m s o →
    (∀ mem : Memory,
        (∀ k, k < operandBytesOf i →
          mem.read (operandByte i m s o k).toNat = s.mem.read (operandByte i m s o k).toNat) →
        exec i { s with mem := mem } = mapNext (fun t => { t with mem := mem }) (exec i s))
      ∧ (¬ SegmentCheckFails i m s o → ¬ PageCheckFails i m s o → ¬ AlignmentCheckFails i m s o →
        ¬ OperandListed i m s o → exec i s = .refused .notOrdinaryMemory)

/-- R134, R135, R139, R49. That every byte of the operand must be canonical, not the first alone, is log 16's (DEDUCED); that Translate is given by limits and bits of the segments, and that a byte at offset 2^32 or above is outside the limit of a segment that has one, is log 8's (DESIGN CHOICE); that the bytes' linear addresses wrap is log 17's (DEDUCED); that SS is checked for its limit alone is log 31's (DEDUCED); that in 64-bit mode an override 26H, 2EH, 36H or 3EH leaves the default segment in place, and with it the choice of the fault, is log 18's (DEDUCED, from R74's words that it has no effect). -/
def Obligations.SegmentFaultsAreStackOrGeneralProtection : Prop :=
  ∀ (i : Instr) (m : Mode) (s : State) (o : MemOperand), ReachesOperand i m s o → SegmentCheckFails i m s o →
    exec i s = .fault (if operandSeg i m o = .ss then .ss else .gp)

/-- R136, R139. That bits 31:5 of the code are zero is log 36's (PRESUMED); which faulting byte is reported is a free value (log 13); that an address in no listed page is not present is log 29's (DESIGN CHOICE); which checks came before rests on logs 8, 16 and 31, and that the bytes' addresses wrap on log 17 (DEDUCED). -/
def Obligations.PageFaultsCarryTheirCode : Prop :=
  ∀ (i : Instr) (m : Mode) (s : State) (o : MemOperand), ReachesOperand i m s o →
    ¬ SegmentCheckFails i m s o → PageCheckFails i m s o → ¬ AlignmentCheckFails i m s o →
    ∃ (k : Nat) (code : BitVec 32), k < operandBytesOf i
      ∧ exec i s = .fault (.pf code (operandByte i m s o k))
      ∧ PageFaultsAt s (operandByte i m s o k)
      ∧ code.getLsbD 0 = decide (pageKindAt s.pages (operandByte i m s o k) ≠ .notPresent)
      ∧ code.getLsbD 1 = false
      ∧ code.getLsbD 2 = decide (s.cpl = 3#2)
      ∧ code.getLsbD 3 = decide (pageKindAt s.pages (operandByte i m s o k) = .reservedBit)
      ∧ code.getLsbD 4 = false
      ∧ code.toNat < 16

/-- R137, with U8 for the case in which a page faults too (logs 14 and 15). What the segment and page checks are rests on logs 8, 16, 29 and 31, and that they take the operand's bytes at reduced addresses on log 17 (DEDUCED); the alignment check itself on none. -/
def Obligations.MisalignedOperandsRaiseAlignmentCheck : Prop :=
  ∀ (i : Instr) (m : Mode) (s : State) (o : MemOperand), ReachesOperand i m s o →
    ¬ SegmentCheckFails i m s o → AlignmentCheckFails i m s o →
    (¬ PageCheckFails i m s o →
        exec i s = if operandBytesOf i = 16 then .refused .alignCheck16 else .fault .ac)
      ∧ (PageCheckFails i m s o →
        (exec i s = if operandBytesOf i = 16 then .refused .alignCheck16 else .fault .ac)
          ∨ ∃ code linear, exec i s = .fault (.pf code linear))

/-- R100, R22; R130 to R133 for the conditions. -/
def Obligations.RegisterSourcesComplete : Prop :=
  ∀ (i : Instr) (s : State) (m : Mode) (j : RegNum), i.src = .reg j → s.mode? = some m → ¬ RaisesUd i s →
    s.cr0.getLsbD 3 = false →
    ∃ t, exec i s = .next t ∧ SameButDst i.dst s t ∧ t.pc = nextPc m s.pc i.len
      ∧ HoldsExtended i (s.xmmGet j) (t.ymmGet i.dst)

/-- R45, R46, R43, R41, R100. That ordinary bytes are the listed ones is log 9's (DESIGN CHOICE); that an operand that wraps at the top completes with the bytes at the reduced addresses is log 17's (DEDUCED); that a null or unreadable SS passes in 32-bit mode is log 31's (DEDUCED); the segments' bases and limits are log 8's (DESIGN CHOICE), the pages log 29's (DESIGN CHOICE), and that every byte must be canonical log 16's (DEDUCED). -/
def Obligations.MemorySourcesCompleteAtAnyAlignment : Prop :=
  ∀ (i : Instr) (m : Mode) (s : State) (o : MemOperand), ReachesOperand i m s o →
    ¬ SegmentCheckFails i m s o → ¬ PageCheckFails i m s o → ¬ AlignmentCheckFails i m s o →
    OperandListed i m s o →
    ∃ t v, exec i s = .next t ∧ SameButDst i.dst s t ∧ t.pc = nextPc m s.pc i.len
      ∧ (∀ k, k < operandBytesOf i → s.mem.read (operandByte i m s o k).toNat = some (element 8 k v))
      ∧ HoldsExtended i v (t.ymmGet i.dst)

/-- R101 to R106. -/
def Obligations.HelpersSignExtendEachElement : Prop :=
  (∀ (v : BitVec 64) (k : Nat), k < 8 →
        element 16 k (packedSignExtendByteToWord v) = (element 8 k v).signExtend 16)
    ∧ (∀ (v : BitVec 32) (k : Nat), k < 4 →
        element 32 k (packedSignExtendByteToDword v) = (element 8 k v).signExtend 32)
    ∧ (∀ (v : BitVec 16) (k : Nat), k < 2 →
        element 64 k (packedSignExtendByteToQword v) = (element 8 k v).signExtend 64)
    ∧ (∀ (v : BitVec 64) (k : Nat), k < 4 →
        element 32 k (packedSignExtendWordToDword v) = (element 16 k v).signExtend 32)
    ∧ (∀ (v : BitVec 32) (k : Nat), k < 2 →
        element 64 k (packedSignExtendWordToQword v) = (element 16 k v).signExtend 64)
    ∧ ∀ (v : BitVec 64) (k : Nat), k < 2 →
        element 64 k (packedSignExtendDwordToQword v) = (element 32 k v).signExtend 64

/-- R99. -/
def Obligations.ElementsKeepTheirSignedValue : Prop :=
  (∀ (v : BitVec 64) (k : Nat), k < 8 →
        (element 16 k (packedSignExtendByteToWord v)).toInt = (element 8 k v).toInt)
    ∧ (∀ (v : BitVec 32) (k : Nat), k < 4 →
        (element 32 k (packedSignExtendByteToDword v)).toInt = (element 8 k v).toInt)
    ∧ (∀ (v : BitVec 16) (k : Nat), k < 2 →
        (element 64 k (packedSignExtendByteToQword v)).toInt = (element 8 k v).toInt)
    ∧ (∀ (v : BitVec 64) (k : Nat), k < 4 →
        (element 32 k (packedSignExtendWordToDword v)).toInt = (element 16 k v).toInt)
    ∧ (∀ (v : BitVec 32) (k : Nat), k < 2 →
        (element 64 k (packedSignExtendWordToQword v)).toInt = (element 16 k v).toInt)
    ∧ (∀ (v : BitVec 64) (k : Nat), k < 2 →
        (element 64 k (packedSignExtendDwordToQword v)).toInt = (element 32 k v).toInt)
    ∧ (∀ (v w : BitVec 64) (k : Nat), k < 8 → element 8 k v = element 8 k w →
        element 16 k (packedSignExtendByteToWord v) = element 16 k (packedSignExtendByteToWord w))
    ∧ (∀ (v w : BitVec 32) (k : Nat), k < 4 → element 8 k v = element 8 k w →
        element 32 k (packedSignExtendByteToDword v) = element 32 k (packedSignExtendByteToDword w))
    ∧ (∀ (v w : BitVec 16) (k : Nat), k < 2 → element 8 k v = element 8 k w →
        element 64 k (packedSignExtendByteToQword v) = element 64 k (packedSignExtendByteToQword w))
    ∧ (∀ (v w : BitVec 64) (k : Nat), k < 4 → element 16 k v = element 16 k w →
        element 32 k (packedSignExtendWordToDword v) = element 32 k (packedSignExtendWordToDword w))
    ∧ (∀ (v w : BitVec 32) (k : Nat), k < 2 → element 16 k v = element 16 k w →
        element 64 k (packedSignExtendWordToQword v) = element 64 k (packedSignExtendWordToQword w))
    ∧ ∀ (v w : BitVec 64) (k : Nat), k < 2 → element 32 k v = element 32 k w →
        element 64 k (packedSignExtendDwordToQword v) = element 64 k (packedSignExtendDwordToQword w)

/-- The relations at the end of 41_vpmovsx_vex128.md and 42_vpmovsx_vex256.md. -/
def Obligations.TheThreeEncodingsAgreeOnTheLowHalf : Prop :=
  ∀ (o : Op) (p : LegacyPrefixes) (q r : VexPrefixes) (f g : BitVec 4) (dst : RegNum) (src1 src2 src3 : Source)
    (s t1 t2 t3 : State) (m : Mode) (v w : Xmm),
    s.mode? = some m →
    s.readSource m p.seg p.addrSize (operandSize .legacy o) (legacyLen p src1) src1 = .next v →
    s.readSource m q.seg q.addrSize (operandSize .vex128 o) (vexLen q src2) src2 = .next v →
    s.readSource m r.seg r.addrSize (operandSize .vex256 o) (vexLen r src3) src3 = .next w →
    (∀ b, b < 8 * operandSize .legacy o → w.getLsbD b = v.getLsbD b) →
    exec (.legacy o p dst src1) s = .next t1 → exec (.vex128 o q f dst src2) s = .next t2 →
    exec (.vex256 o r g dst src3) s = .next t3 →
    t1.xmmGet dst = t2.xmmGet dst ∧ t2.xmmGet dst = t3.xmmGet dst
      ∧ (t1.ymmGet dst).extractLsb' 128 128 = (s.ymmGet dst).extractLsb' 128 128
      ∧ (t2.ymmGet dst).extractLsb' 128 128 = 0#128

/-- R22. -/
def Obligations.UnreadSourceBitsDoNotMatter : Prop :=
  ∀ (i : Instr) (s t t' : State) (j : RegNum) (v : Ymm), i.src = .reg j →
    (∀ b, b < 8 * operandBytesOf i → v.getLsbD b = (s.ymmGet j).getLsbD b) →
    exec i s = .next t → exec i (s.ymmSet j v) = .next t' →
    ∀ b, b < (if i.enc = .legacy then 128 else 256) →
      (t'.ymmGet i.dst).getLsbD b = (t.ymmGet i.dst).getLsbD b

/-- The property of Program 1 in 95_test_vectors.md section 6, for every value. -/
def Obligations.WideningInStepsEqualsWideningAtOnce : Prop :=
  ∀ v : BitVec 64,
    packedSignExtendDwordToQword ((packedSignExtendWordToDword
        ((packedSignExtendByteToWord v).extractLsb' 0 64)).extractLsb' 0 64)
        = packedSignExtendByteToQword (v.extractLsb' 0 16)
      ∧ packedSignExtendWordToQword ((packedSignExtendByteToWord v).extractLsb' 0 32)
        = packedSignExtendByteToQword (v.extractLsb' 0 16)
      ∧ packedSignExtendDwordToQword ((packedSignExtendByteToDword (v.extractLsb' 0 32)).extractLsb' 0 64)
        = packedSignExtendByteToQword (v.extractLsb' 0 16)

/-- R163, R80, U5, R25, D12. Which bytes the decoder sees is log 22's (DEDUCED). -/
def Obligations.StepRunsTheDecodedInstruction : Prop :=
  ∀ (s : State) (m : Mode), s.mode? = some m →
    (∀ (i : Instr) (rest : List Byte), decode m (s.fetch m) = .insn i rest →
        (s.pc.toNat % 2 ^ linearBits m + i.len ≤ 2 ^ linearBits m → step s = exec i s)
          ∧ (2 ^ linearBits m < s.pc.toNat % 2 ^ linearBits m + i.len → step s = .refused .fetchWraps))
      ∧ (∀ r : DecodeRefusal, decode m (s.fetch m) = .refused r → step s = .refused (.decoder r))
      ∧ (decode m (s.fetch m) = .notInScope → step s = .refused .notInScope)

/-- R24, R25, R44; memory's canonical form is the model's. -/
def Obligations.StepKeepsTheInvariant : Prop :=
  ∀ s t : State, StateInv s → step s = .next t → StateInv t

/-- R32 and R24 for the clause on pc, which holds vacuously: the mode at reset is real-address mode. Memory's canonical form is the model's, and that reset memory lists nothing is log 37's (DESIGN CHOICE); R32's table has no row for memory. -/
def Obligations.ResetMeetsTheInvariant : Prop :=
  StateInv State.reset

/-- R32 and the whole-register values of R29; `pc` is log 4's reading (DEDUCED). -/
def Obligations.ResetValuesAreThoseListed : Prop :=
  (∀ r : RegNum, State.reset.ymmGet r = 0#256) ∧ (∀ r : RegNum, r ≠ 2#4 → State.reset.gpr r = 0#64)
    ∧ State.reset.fsbase = 0#64 ∧ State.reset.segs.csBase = 0xFFFF0000#32 ∧ State.reset.gsbase = 0#64 ∧ State.reset.pc = 0xFFFFFFF0#64
    ∧ State.reset.eflags = 2#64 ∧ State.reset.mxcsr = 0x1F80#32 ∧ State.reset.cr0 = 0x60000010#64
    ∧ State.reset.cr4 = 0#64 ∧ State.reset.xcr0 = 1#64 ∧ State.reset.lma = false ∧ State.reset.cpl = 0#2
    ∧ State.reset.opMode = .realAddress ∧ State.reset.em = false ∧ State.reset.ts = false
    ∧ State.reset.osSse = false ∧ State.reset.osAvx = false ∧ State.reset.acEnabled = false

/-- R161, R131, D20. That in an unsupported mode the refusal comes first is log 2's (DEDUCED). -/
def Obligations.ResetEnablesRaiseInvalidOpcode : Prop :=
  ∀ (i : Instr) (s : State), s.cr4 = State.reset.cr4 →
    (∀ m, s.mode? = some m → exec i s = .fault .ud)
      ∧ (s.mode? = none → exec i s = .refused .unsupportedMode)

/-- R33, R40, R54, over runs from every state. -/
def Obligations.RunsChangeOnlyVectorRegistersAndPc : Prop :=
  ∀ (k : Nat) (s t : State), Host.Core.run Sys2Proof.core k s = .next t → SameButVectorsAndPc s t

/-- R40; the canonical form is the model's. -/
def Obligations.MemoryReadsWhatWasWritten : Prop :=
  ∀ (m : Memory) (k : Nat) (v : Byte),
    (m.write k v).read k = some v ∧ (∀ j, j ≠ k → (m.write k v).read j = m.read j)
      ∧ (m.wf = true → (m.write k v).wf = true)
      ∧ ∀ m' : Memory, m.wf = true → m'.wf = true → (∀ j, m.read j = m'.read j) → m = m'

/-- R138's table: what raises each exception, its vector and its error code. That an error code has 32 bits is log 36's (PRESUMED); that in 64-bit mode an override 26H, 2EH, 36H or 3EH leaves the default segment, and with it the choice of #SS or #GP, is log 18's (DEDUCED); that the table's #GP for more than fifteen bytes does not arise, so that memory sources alone raise #GP, is log 33's (DEDUCED, with D21); that no fault arises outside the two modes is log 2's (DEDUCED). -/
def Obligations.FaultsHaveTheirVectorAndErrorCode : Prop :=
  ∀ (i : Instr) (s : State) (f : Fault), exec i s = .fault f →
    (f = .ud ∧ f.vector = 6 ∧ f.errorCode = none) ∨ (f = .nm ∧ f.vector = 7 ∧ f.errorCode = none)
      ∨ ∃ o m, i.src = .mem o ∧ s.mode? = some m
        ∧ ((f = .ss ∧ f.vector = 12 ∧ f.errorCode = some 0#32 ∧ operandSeg i m o = .ss)
          ∨ (f = .gp ∧ f.vector = 13 ∧ f.errorCode = some 0#32 ∧ operandSeg i m o ≠ .ss)
          ∨ (∃ code linear, f = .pf code linear ∧ f.vector = 14 ∧ f.errorCode = some code)
          ∨ (f = .ac ∧ f.vector = 17 ∧ f.errorCode = some 0#32 ∧ operandBytesOf i ≠ 16))

/-- R163, R25, D19; R100 for the step. That the end is no state of the machine is log 26's (DEDUCED), and which bytes are fetched log 22's (DEDUCED). -/
def Obligations.ARunOfOneFormEndsAtItsEnd : Prop :=
  ∀ (i : Instr) (s : State) (m : Mode) (j : RegNum) (k : Nat), s.mode? = some m → i.wellFormed m = true →
    i.src = .reg j → ¬ RaisesUd i s → s.cr0.getLsbD 3 = false →
    (Program.mk s.pc (encode i)).loaded m s = true →
    s.pc.toNat % 2 ^ linearBits m + i.len ≤ 2 ^ linearBits m →
    ∃ t, exec i s = .next t ∧ (Program.mk s.pc (encode i)).run (k + 1) s = .ended t

/-- R77, R64, R79, R80, U1, U6, D23. That the refusal stands before a `#UD` by a prefix is log 34's (DESIGN CHOICE). -/
def Obligations.OtherVvvvRaiseInvalidOpcodeOrAreRefused : Prop :=
  ∀ (m : Mode) (pre : List Byte) (b1 b2 c2 : Byte) (body : List Byte) (i : Instr) (rest : List Byte),
    AllPrefixes m pre → decode m (pre ++ 0xC4#8 :: b1 :: b2 :: body) = .insn i rest →
    c2.extractLsb' 0 2 = 1#2 →
    (m = .mode32 → c2.extractLsb' 3 4 = 7#4 →
        decode m (pre ++ 0xC4#8 :: b1 :: c2 :: body) = .refused .vvvv0111)
      ∧ (c2.extractLsb' 3 4 ≠ 15#4 → (m = .mode32 → c2.extractLsb' 3 4 ≠ 7#4) →
        (∃ i', decode m (pre ++ 0xC4#8 :: b1 :: c2 :: body) = .insn i' rest ∧ i'.udByBytes = true)
          ∧ decodeAnswer m (pre ++ 0xC4#8 :: b1 :: c2 :: body) = .ud)
end

