-- ==== Sys2Proof/Laws/State.lean ====
section
/-!
SUPPORT. What each update of the state does to each field: one lemma per field per update, true by rfl.
-/

namespace Sys2Proof.Machine

/-! ## `State.ymmSet` -/

@[simp] theorem State.ymmSet_ymm (s : State) (r : RegNum) (v : Ymm) :
    (s.ymmSet r v).ymm = s.ymm.set r.toNat v r.isLt := rfl

@[simp] theorem State.ymmSet_x (s : State) (r : RegNum) (v : Ymm) :
    (s.ymmSet r v).x = s.x := rfl

@[simp] theorem State.ymmSet_fsbase (s : State) (r : RegNum) (v : Ymm) :
    (s.ymmSet r v).fsbase = s.fsbase := rfl

@[simp] theorem State.ymmSet_gsbase (s : State) (r : RegNum) (v : Ymm) :
    (s.ymmSet r v).gsbase = s.gsbase := rfl

@[simp] theorem State.ymmSet_pc (s : State) (r : RegNum) (v : Ymm) :
    (s.ymmSet r v).pc = s.pc := rfl

@[simp] theorem State.ymmSet_eflags (s : State) (r : RegNum) (v : Ymm) :
    (s.ymmSet r v).eflags = s.eflags := rfl

@[simp] theorem State.ymmSet_mxcsr (s : State) (r : RegNum) (v : Ymm) :
    (s.ymmSet r v).mxcsr = s.mxcsr := rfl

@[simp] theorem State.ymmSet_cr0 (s : State) (r : RegNum) (v : Ymm) :
    (s.ymmSet r v).cr0 = s.cr0 := rfl

@[simp] theorem State.ymmSet_cr4 (s : State) (r : RegNum) (v : Ymm) :
    (s.ymmSet r v).cr4 = s.cr4 := rfl

@[simp] theorem State.ymmSet_xcr0 (s : State) (r : RegNum) (v : Ymm) :
    (s.ymmSet r v).xcr0 = s.xcr0 := rfl

@[simp] theorem State.ymmSet_opMode (s : State) (r : RegNum) (v : Ymm) :
    (s.ymmSet r v).opMode = s.opMode := rfl

@[simp] theorem State.ymmSet_lma (s : State) (r : RegNum) (v : Ymm) :
    (s.ymmSet r v).lma = s.lma := rfl

@[simp] theorem State.ymmSet_csL (s : State) (r : RegNum) (v : Ymm) :
    (s.ymmSet r v).csL = s.csL := rfl

@[simp] theorem State.ymmSet_csD (s : State) (r : RegNum) (v : Ymm) :
    (s.ymmSet r v).csD = s.csD := rfl

@[simp] theorem State.ymmSet_cpl (s : State) (r : RegNum) (v : Ymm) :
    (s.ymmSet r v).cpl = s.cpl := rfl

@[simp] theorem State.ymmSet_featSse41 (s : State) (r : RegNum) (v : Ymm) :
    (s.ymmSet r v).featSse41 = s.featSse41 := rfl

@[simp] theorem State.ymmSet_featAvx (s : State) (r : RegNum) (v : Ymm) :
    (s.ymmSet r v).featAvx = s.featAvx := rfl

@[simp] theorem State.ymmSet_featAvx2 (s : State) (r : RegNum) (v : Ymm) :
    (s.ymmSet r v).featAvx2 = s.featAvx2 := rfl

@[simp] theorem State.ymmSet_law (s : State) (r : RegNum) (v : Ymm) :
    (s.ymmSet r v).law = s.law := rfl

@[simp] theorem State.ymmSet_segs (s : State) (r : RegNum) (v : Ymm) :
    (s.ymmSet r v).segs = s.segs := rfl

@[simp] theorem State.ymmSet_paging (s : State) (r : RegNum) (v : Ymm) :
    (s.ymmSet r v).paging = s.paging := rfl

@[simp] theorem State.ymmSet_pages (s : State) (r : RegNum) (v : Ymm) :
    (s.ymmSet r v).pages = s.pages := rfl

@[simp] theorem State.ymmSet_mem (s : State) (r : RegNum) (v : Ymm) :
    (s.ymmSet r v).mem = s.mem := rfl

/-! ## `State.advance` -/

@[simp] theorem State.advance_ymm (s : State) (m : Mode) (n : Nat) :
    (s.advance m n).ymm = s.ymm := rfl

@[simp] theorem State.advance_x (s : State) (m : Mode) (n : Nat) :
    (s.advance m n).x = s.x := rfl

@[simp] theorem State.advance_fsbase (s : State) (m : Mode) (n : Nat) :
    (s.advance m n).fsbase = s.fsbase := rfl

@[simp] theorem State.advance_gsbase (s : State) (m : Mode) (n : Nat) :
    (s.advance m n).gsbase = s.gsbase := rfl

@[simp] theorem State.advance_pc (s : State) (m : Mode) (n : Nat) :
    (s.advance m n).pc = nextPc m s.pc n := rfl

@[simp] theorem State.advance_eflags (s : State) (m : Mode) (n : Nat) :
    (s.advance m n).eflags = s.eflags := rfl

@[simp] theorem State.advance_mxcsr (s : State) (m : Mode) (n : Nat) :
    (s.advance m n).mxcsr = s.mxcsr := rfl

@[simp] theorem State.advance_cr0 (s : State) (m : Mode) (n : Nat) :
    (s.advance m n).cr0 = s.cr0 := rfl

@[simp] theorem State.advance_cr4 (s : State) (m : Mode) (n : Nat) :
    (s.advance m n).cr4 = s.cr4 := rfl

@[simp] theorem State.advance_xcr0 (s : State) (m : Mode) (n : Nat) :
    (s.advance m n).xcr0 = s.xcr0 := rfl

@[simp] theorem State.advance_opMode (s : State) (m : Mode) (n : Nat) :
    (s.advance m n).opMode = s.opMode := rfl

@[simp] theorem State.advance_lma (s : State) (m : Mode) (n : Nat) :
    (s.advance m n).lma = s.lma := rfl

@[simp] theorem State.advance_csL (s : State) (m : Mode) (n : Nat) :
    (s.advance m n).csL = s.csL := rfl

@[simp] theorem State.advance_csD (s : State) (m : Mode) (n : Nat) :
    (s.advance m n).csD = s.csD := rfl

@[simp] theorem State.advance_cpl (s : State) (m : Mode) (n : Nat) :
    (s.advance m n).cpl = s.cpl := rfl

@[simp] theorem State.advance_featSse41 (s : State) (m : Mode) (n : Nat) :
    (s.advance m n).featSse41 = s.featSse41 := rfl

@[simp] theorem State.advance_featAvx (s : State) (m : Mode) (n : Nat) :
    (s.advance m n).featAvx = s.featAvx := rfl

@[simp] theorem State.advance_featAvx2 (s : State) (m : Mode) (n : Nat) :
    (s.advance m n).featAvx2 = s.featAvx2 := rfl

@[simp] theorem State.advance_law (s : State) (m : Mode) (n : Nat) :
    (s.advance m n).law = s.law := rfl

@[simp] theorem State.advance_segs (s : State) (m : Mode) (n : Nat) :
    (s.advance m n).segs = s.segs := rfl

@[simp] theorem State.advance_paging (s : State) (m : Mode) (n : Nat) :
    (s.advance m n).paging = s.paging := rfl

@[simp] theorem State.advance_pages (s : State) (m : Mode) (n : Nat) :
    (s.advance m n).pages = s.pages := rfl

@[simp] theorem State.advance_mem (s : State) (m : Mode) (n : Nat) :
    (s.advance m n).mem = s.mem := rfl

/-! ## `State.loadAtPc` -/

@[simp] theorem State.loadAtPc_ymm (s : State) (bs : List Byte) :
    (s.loadAtPc bs).ymm = s.ymm := rfl

@[simp] theorem State.loadAtPc_x (s : State) (bs : List Byte) :
    (s.loadAtPc bs).x = s.x := rfl

@[simp] theorem State.loadAtPc_fsbase (s : State) (bs : List Byte) :
    (s.loadAtPc bs).fsbase = s.fsbase := rfl

@[simp] theorem State.loadAtPc_gsbase (s : State) (bs : List Byte) :
    (s.loadAtPc bs).gsbase = s.gsbase := rfl

@[simp] theorem State.loadAtPc_pc (s : State) (bs : List Byte) :
    (s.loadAtPc bs).pc = s.pc := rfl

@[simp] theorem State.loadAtPc_eflags (s : State) (bs : List Byte) :
    (s.loadAtPc bs).eflags = s.eflags := rfl

@[simp] theorem State.loadAtPc_mxcsr (s : State) (bs : List Byte) :
    (s.loadAtPc bs).mxcsr = s.mxcsr := rfl

@[simp] theorem State.loadAtPc_cr0 (s : State) (bs : List Byte) :
    (s.loadAtPc bs).cr0 = s.cr0 := rfl

@[simp] theorem State.loadAtPc_cr4 (s : State) (bs : List Byte) :
    (s.loadAtPc bs).cr4 = s.cr4 := rfl

@[simp] theorem State.loadAtPc_xcr0 (s : State) (bs : List Byte) :
    (s.loadAtPc bs).xcr0 = s.xcr0 := rfl

@[simp] theorem State.loadAtPc_opMode (s : State) (bs : List Byte) :
    (s.loadAtPc bs).opMode = s.opMode := rfl

@[simp] theorem State.loadAtPc_lma (s : State) (bs : List Byte) :
    (s.loadAtPc bs).lma = s.lma := rfl

@[simp] theorem State.loadAtPc_csL (s : State) (bs : List Byte) :
    (s.loadAtPc bs).csL = s.csL := rfl

@[simp] theorem State.loadAtPc_csD (s : State) (bs : List Byte) :
    (s.loadAtPc bs).csD = s.csD := rfl

@[simp] theorem State.loadAtPc_cpl (s : State) (bs : List Byte) :
    (s.loadAtPc bs).cpl = s.cpl := rfl

@[simp] theorem State.loadAtPc_featSse41 (s : State) (bs : List Byte) :
    (s.loadAtPc bs).featSse41 = s.featSse41 := rfl

@[simp] theorem State.loadAtPc_featAvx (s : State) (bs : List Byte) :
    (s.loadAtPc bs).featAvx = s.featAvx := rfl

@[simp] theorem State.loadAtPc_featAvx2 (s : State) (bs : List Byte) :
    (s.loadAtPc bs).featAvx2 = s.featAvx2 := rfl

@[simp] theorem State.loadAtPc_law (s : State) (bs : List Byte) :
    (s.loadAtPc bs).law = s.law := rfl

@[simp] theorem State.loadAtPc_segs (s : State) (bs : List Byte) :
    (s.loadAtPc bs).segs = s.segs := rfl

@[simp] theorem State.loadAtPc_paging (s : State) (bs : List Byte) :
    (s.loadAtPc bs).paging = s.paging := rfl

@[simp] theorem State.loadAtPc_pages (s : State) (bs : List Byte) :
    (s.loadAtPc bs).pages = s.pages := rfl

@[simp] theorem State.loadAtPc_mem (s : State) (bs : List Byte) :
    (s.loadAtPc bs).mem = s.mem.writeBytes (s.mode?.getD .mode64) s.pc bs := rfl

/-! ## The derived views, which depend on other fields only -/

@[simp] theorem State.ymmSet_mode (s : State) (r : RegNum) (v : Ymm) : (s.ymmSet r v).mode? = s.mode? := rfl

@[simp] theorem State.ymmSet_em (s : State) (r : RegNum) (v : Ymm) : (s.ymmSet r v).em = s.em := rfl

@[simp] theorem State.ymmSet_ts (s : State) (r : RegNum) (v : Ymm) : (s.ymmSet r v).ts = s.ts := rfl

@[simp] theorem State.ymmSet_osSse (s : State) (r : RegNum) (v : Ymm) : (s.ymmSet r v).osSse = s.osSse := rfl

@[simp] theorem State.ymmSet_osAvx (s : State) (r : RegNum) (v : Ymm) : (s.ymmSet r v).osAvx = s.osAvx := rfl

@[simp] theorem State.ymmSet_acEnabled (s : State) (r : RegNum) (v : Ymm) : (s.ymmSet r v).acEnabled = s.acEnabled := rfl

@[simp] theorem State.advance_mode (s : State) (m : Mode) (n : Nat) : (s.advance m n).mode? = s.mode? := rfl

@[simp] theorem State.advance_em (s : State) (m : Mode) (n : Nat) : (s.advance m n).em = s.em := rfl

@[simp] theorem State.advance_ts (s : State) (m : Mode) (n : Nat) : (s.advance m n).ts = s.ts := rfl

@[simp] theorem State.advance_osSse (s : State) (m : Mode) (n : Nat) : (s.advance m n).osSse = s.osSse := rfl

@[simp] theorem State.advance_osAvx (s : State) (m : Mode) (n : Nat) : (s.advance m n).osAvx = s.osAvx := rfl

@[simp] theorem State.advance_acEnabled (s : State) (m : Mode) (n : Nat) : (s.advance m n).acEnabled = s.acEnabled := rfl

@[simp] theorem State.ymmGet_advance (s : State) (m : Mode) (n : Nat) (r : RegNum) :
    (s.advance m n).ymmGet r = s.ymmGet r := rfl

/-- A register reads as it was written. -/
@[simp] theorem State.ymmGet_ymmSet_same (s : State) (r : RegNum) (v : Ymm) : (s.ymmSet r v).ymmGet r = v := by
  simp [State.ymmGet, State.ymmSet, Vector.get_eq_getElem]

/-- A write leaves every other register alone. -/
theorem State.ymmGet_ymmSet_other (s : State) (r q : RegNum) (v : Ymm) (h : q ≠ r) :
    (s.ymmSet r v).ymmGet q = s.ymmGet q := by
  have : r.toNat ≠ q.toNat := fun e => h (BitVec.eq_of_toNat_eq e.symm)
  simp [State.ymmGet, State.ymmSet, Vector.get_eq_getElem, Vector.getElem_set_ne, this]

end Sys2Proof.Machine
end

