-- ==== Sys2Proof/Laws/Exec.lean ====
section
/-!
SUPPORT. Everything the shared execution rule can do, and every meaning as an instance of it.
-/

namespace Sys2Proof.Machine

open Sys2Proof.Safety

/-- In a supported mode, the execution rule in R100's order. -/
theorem executeForm_eq {f : FormInfo} {src : Source} {write : Xmm → State → State} {s : State} {m : Mode}
    (hm : s.mode? = some m) :
    executeForm f src write s =
      if f.udByBytes || s.gateUd f.enc then .fault .ud
      else if s.ts then .fault .nm
      else andThen (s.readSource m f.seg f.addrSize f.memBytes f.len src) fun v =>
        .next ((write v s).advance m f.len) := by
  simp only [executeForm, hm, raise]

/-- If it answers a next state, no `#UD`, no `#NM`, the source had a value, and the next state is the write and
the advance of `pc`. -/
theorem executeForm_next {f : FormInfo} {src : Source} {write : Xmm → State → State} {s t : State}
    (h : executeForm f src write s = .next t) :
    ∃ m v, s.mode? = some m ∧ (f.udByBytes || s.gateUd f.enc) = false ∧ s.ts = false
      ∧ s.readSource m f.seg f.addrSize f.memBytes f.len src = .next v
      ∧ t = (write v s).advance m f.len := by
  cases hm : s.mode? with
  | none => simp [executeForm, hm] at h
  | some m =>
    rw [executeForm_eq hm] at h
    split at h
    · cases h
    · next hud =>
      split at h
      · cases h
      · next hts =>
        cases hr : s.readSource m f.seg f.addrSize f.memBytes f.len src with
        | next v =>
          rw [hr] at h
          simp only [andThen, Host.Outcome.next.injEq] at h
          exact ⟨m, v, rfl, by simpa using hud, by simpa using hts, hr, h.symm⟩
        | fault f => rw [hr] at h; cases h
        | refused r => rw [hr] at h; cases h

/-- What the execution rule needs of an instruction. -/
def infoOf (i : Instr) : FormInfo :=
  ⟨i.enc, i.udByBytes, segOverride i, has67 i, operandSize i.enc i.op, i.len⟩

/-- An operation's lane function on the low bits of the source. -/
def lowLanes : Op → Xmm → Xmm
  | .bw, v => packedSignExtendByteToWord (v.extractLsb' 0 64)
  | .bd, v => packedSignExtendByteToDword (v.extractLsb' 0 32)
  | .bq, v => packedSignExtendByteToQword (v.extractLsb' 0 16)
  | .wd, v => packedSignExtendWordToDword (v.extractLsb' 0 64)
  | .wq, v => packedSignExtendWordToQword (v.extractLsb' 0 32)
  | .dq, v => packedSignExtendDwordToQword (v.extractLsb' 0 64)

/-- An operation's lane function on the next bits of the source, the second helper call of a VEX.256 form. -/
def highLanes : Op → Xmm → Xmm
  | .bw, v => packedSignExtendByteToWord (v.extractLsb' 64 64)
  | .bd, v => packedSignExtendByteToDword (v.extractLsb' 32 32)
  | .bq, v => packedSignExtendByteToQword (v.extractLsb' 16 16)
  | .wd, v => packedSignExtendWordToDword (v.extractLsb' 64 64)
  | .wq, v => packedSignExtendWordToQword (v.extractLsb' 32 32)
  | .dq, v => packedSignExtendDwordToQword (v.extractLsb' 64 64)

/-- The destination's new value, from its old value and the source's value. -/
def resultOf (i : Instr) (old : Ymm) (v : Xmm) : Ymm :=
  match i.enc with
  | .legacy => old.extractLsb' 128 128 ++ lowLanes i.op v
  | .vex128 => (lowLanes i.op v).setWidth 256
  | .vex256 => highLanes i.op v ++ lowLanes i.op v

/-- Every meaning is an instance of the execution rule. -/
theorem exec_eq (i : Instr) (s : State) :
    exec i s = executeForm (infoOf i) i.src (fun v s => s.ymmSet i.dst (resultOf i (s.ymmGet i.dst) v)) s := by
  cases i <;> rfl

/-- Everything an instruction that completes has done. -/
theorem exec_next {i : Instr} {s t : State} (h : exec i s = .next t) :
    ∃ m v, s.mode? = some m ∧ (i.udByBytes || s.gateUd i.enc) = false ∧ s.ts = false
      ∧ s.readSource m (segOverride i) (has67 i) (operandSize i.enc i.op) i.len i.src = .next v
      ∧ t = (s.ymmSet i.dst (resultOf i (s.ymmGet i.dst) v)).advance m i.len := by
  rw [exec_eq] at h
  exact executeForm_next h

/-- An instruction in a supported mode, in R100's order. -/
theorem exec_eq_of_mode {i : Instr} {s : State} {m : Mode} (hm : s.mode? = some m) :
    exec i s =
      if i.udByBytes || s.gateUd i.enc then .fault .ud
      else if s.ts then .fault .nm
      else andThen (s.readSource m (segOverride i) (has67 i) (operandSize i.enc i.op) i.len i.src) fun v =>
        .next ((s.ymmSet i.dst (resultOf i (s.ymmGet i.dst) v)).advance m i.len) := by
  rw [exec_eq, executeForm_eq hm]
  rfl

/-- A register source reads as the register's low 128 bits. -/
@[simp] theorem readSource_reg (s : State) (m : Mode) (o : Option SegReg) (z : Bool) (n len : Nat)
    (j : RegNum) : s.readSource m o z n len (.reg j) = .next (s.xmmGet j) := rfl

/-- A memory source reads as memory does. -/
theorem readSource_mem (s : State) (m : Mode) (ov : Option SegReg) (z : Bool) (n len : Nat) (o : MemOperand) :
    s.readSource m ov z n len (.mem o) = s.readMem m (segmentOf m ov o) (s.effectiveAddr m z len o) n := rfl

/-- One step, where the processor is in a supported mode and the bytes decode to an instruction that fits. -/
theorem step_of_decode {s : State} {m : Mode} {i : Instr} {rest : List Byte} (hm : s.mode? = some m)
    (hd : decode m (s.fetch m) = .insn i rest) (hw : wrapsPastTop m s.pc i.len = false) : step s = exec i s := by
  simp only [step, hm, hd, hw, Bool.false_eq_true, if_false]

/-- A step that answers a next state has executed a decoded instruction. -/
theorem step_next {s t : State} (h : step s = .next t) :
    ∃ m i rest, s.mode? = some m ∧ decode m (s.fetch m) = .insn i rest
      ∧ wrapsPastTop m s.pc i.len = false ∧ exec i s = .next t := by
  cases hm : s.mode? with
  | none => simp [step, hm] at h
  | some m =>
    simp only [step, hm] at h
    split at h
    · next i rest hd =>
      split at h
      · cases h
      · next hw => exact ⟨m, i, rest, rfl, hd, by simpa using hw, h⟩
    · cases h
    · cases h

end Sys2Proof.Machine
end

