-- ==== Sys2Proof/Laws/Lanes.lean ====
section
/-!
SUPPORT. What the packed sign extension does to each element.
-/

namespace Sys2Proof.Machine

theorem pse_getLsbD_above {n m a w : Nat} (s : BitVec a) (k j : Nat) (h : m * k ≤ j) :
    (pse n m w s k).getLsbD j = false := by
  induction k with
  | zero => simp [pse]
  | succ k ih =>
    have hk : m * k ≤ m * (k + 1) := Nat.mul_le_mul_left _ (by omega)
    rw [pse, BitVec.getLsbD_or, ih (by omega), Bool.false_or, BitVec.getLsbD_shiftLeft,
      BitVec.getLsbD_setWidth, BitVec.getLsbD_of_ge _ (j - m * k) (by rw [Nat.mul_add] at h; omega)]
    simp

/-- Element `i` of `PSE(n, m, k, S)` is the sign extension of the source's element `i`. -/
theorem element_pse {n m a w : Nat} (s : BitVec a) {i k : Nat} (hi : i < k) (hw : m * k ≤ w) :
    element m i (pse n m w s k) = (element n i s).signExtend m := by
  induction k with
  | zero => omega
  | succ k ih =>
    have hmk : m * (k + 1) = m * k + m := Nat.mul_succ m k
    refine BitVec.eq_of_getLsbD_eq fun j hj => ?_
    by_cases e : i = k
    · subst e
      rw [element, BitVec.getLsbD_extractLsb', pse, BitVec.getLsbD_or,
        pse_getLsbD_above s i _ (by omega), BitVec.getLsbD_shiftLeft, BitVec.getLsbD_setWidth]
      have h1 : m * i + j < w := by omega
      have h2 : m * i + j - m * i = j := by omega
      have h3 : j < w := by omega
      have h4 : ¬ (m * i + j < m * i) := by omega
      simp [hj, h1, h2, h3, h4]
    · have hik : i < k := by omega
      have ih := congrArg (fun v => v.getLsbD j) (ih hik (by omega))
      simp only [element, BitVec.getLsbD_extractLsb', hj, decide_true, Bool.true_and] at ih
      rw [element, BitVec.getLsbD_extractLsb', pse, BitVec.getLsbD_or, ih, BitVec.getLsbD_shiftLeft]
      have h5 : m * (i + 1) ≤ m * k := Nat.mul_le_mul_left _ hik
      have h6 : m * i + j < m * k := by rw [Nat.mul_succ] at h5; omega
      simp [hj, h6, element]

/-- An element of the low part of a value is an element of the value. -/
theorem element_extractLsb' {n i l : Nat} {w : Nat} (v : BitVec w) (lo : Nat) (j : Nat) (hlo : lo = n * j)
    (h : n * (i + 1) ≤ l) : element n i (v.extractLsb' lo l) = element n (j + i) v := by
  subst hlo
  refine BitVec.eq_of_getLsbD_eq fun b hb => ?_
  rw [Nat.mul_succ] at h
  have h1 : n * i + b < l := by omega
  have h2 : n * j + (n * i + b) = n * (j + i) + b := by rw [Nat.mul_add]; omega
  simp [element, hb, h1, h2]

/-- An element of the low half of two halves put together. -/
theorem element_append_low {m i : Nat} {a b : Nat} (hi : BitVec a) (lo : BitVec b) (h : m * (i + 1) ≤ b) :
    element m i (hi ++ lo) = element m i lo := by
  refine BitVec.eq_of_getLsbD_eq fun j hj => ?_
  rw [Nat.mul_succ] at h
  have h1 : m * i + j < b := by omega
  simp [element, BitVec.getLsbD_append, hj, h1]

/-- An element of the high half of two halves put together. -/
theorem element_append_high {m i k : Nat} {a b : Nat} (hi : BitVec a) (lo : BitVec b) (hb : b = m * k) :
    element m (k + i) (hi ++ lo) = element m i hi := by
  subst hb
  refine BitVec.eq_of_getLsbD_eq fun j hj => ?_
  have h1 : ¬ m * (k + i) + j < m * k := by rw [Nat.mul_add]; omega
  have h2 : m * (k + i) + j - m * k = m * i + j := by rw [Nat.mul_add]; omega
  simp [element, BitVec.getLsbD_append, hj, h1, h2]

/-- An element of a value widened with zeros. -/
theorem element_setWidth {m i w : Nat} {a : Nat} (v : BitVec a) (h : m * (i + 1) ≤ a) (hw : a ≤ w) :
    element m i (v.setWidth w) = element m i v := by
  refine BitVec.eq_of_getLsbD_eq fun j hj => ?_
  rw [Nat.mul_succ] at h
  have h1 : m * i + j < w := by omega
  simp [element, hj, h1]

end Sys2Proof.Machine
end

