-- ==== Sys2Proof/Laws/Memory.lean ====
section
/-!
SUPPORT. What the memory operations do: a read after a write, the canonical form kept, and the bytes of an
operand.
-/

namespace Sys2Proof.Machine

@[simp] theorem Memory.read_nil (k : Nat) : Memory.read [] k = none := rfl

theorem Memory.read_cons (a : Nat) (b : Byte) (cells : Memory) (k : Nat) :
    Memory.read ((a, b) :: cells) k = if a = k then some b else Memory.read cells k := rfl

/-- Memory from above `lo` lists nothing below `lo`. -/
theorem Memory.read_below {m : Memory} {lo k : Nat} (h : m.risesFrom lo = true) (hk : k < lo) :
    m.read k = none := by
  induction m generalizing lo with
  | nil => rfl
  | cons c cells ih =>
    obtain ⟨a, b⟩ := c
    simp only [Memory.risesFrom, Bool.and_eq_true, decide_eq_true_eq] at h
    rw [Memory.read_cons, if_neg (by omega)]
    exact ih h.2 (by omega)

/-- The address written holds the byte. -/
@[simp] theorem Memory.read_write_same (m : Memory) (k : Nat) (v : Byte) : (m.write k v).read k = some v := by
  induction m with
  | nil => simp [Memory.write, Memory.read_cons]
  | cons c cells ih =>
    obtain ⟨a, b⟩ := c
    simp only [Memory.write]
    split
    · simp [Memory.read_cons]
    · split
      · simp [Memory.read_cons]
      · rw [Memory.read_cons, if_neg (by omega), ih]

/-- Every other address reads as before. -/
theorem Memory.read_write_other (m : Memory) {k j : Nat} (v : Byte) (h : j ≠ k) :
    (m.write k v).read j = m.read j := by
  induction m with
  | nil => simp [Memory.write, Memory.read_cons, Ne.symm h]
  | cons c cells ih =>
    obtain ⟨a, b⟩ := c
    simp only [Memory.write]
    split
    · rw [Memory.read_cons, if_neg (Ne.symm h)]
    · split
      · next e => subst e; rw [Memory.read_cons, Memory.read_cons, if_neg (Ne.symm h), if_neg (Ne.symm h)]
      · rw [Memory.read_cons, Memory.read_cons, ih]

theorem Memory.risesFrom_write {m : Memory} {lo : Nat} (k : Nat) (v : Byte) (h : m.risesFrom lo = true)
    (hk : lo ≤ k) : (m.write k v).risesFrom lo = true := by
  induction m generalizing lo with
  | nil => simpa [Memory.write, Memory.risesFrom] using hk
  | cons c cells ih =>
    obtain ⟨a, b⟩ := c
    simp only [Memory.risesFrom, Bool.and_eq_true, decide_eq_true_eq] at h
    simp only [Memory.write]
    split
    · simp only [Memory.risesFrom, Bool.and_eq_true, decide_eq_true_eq]
      exact ⟨hk, by omega, h.2⟩
    · split
      · next e =>
        subst e
        simp only [Memory.risesFrom, Bool.and_eq_true, decide_eq_true_eq]
        exact ⟨hk, h.2⟩
      · simp only [Memory.risesFrom, Bool.and_eq_true, decide_eq_true_eq]
        exact ⟨h.1, ih h.2 (by omega)⟩

/-- A write keeps the canonical form. -/
theorem Memory.wf_write {m : Memory} (k : Nat) (v : Byte) (h : m.wf = true) : (m.write k v).wf = true :=
  Memory.risesFrom_write k v h (Nat.zero_le k)

/-- Writing several bytes keeps the canonical form. -/
theorem Memory.wf_writeBytes {mem : Memory} (m : Mode) (a : Addr) (bs : List Byte) (h : mem.wf = true) :
    (mem.writeBytes m a bs).wf = true := by
  induction bs generalizing mem a with
  | nil => exact h
  | cons b bs ih => exact ih _ (Memory.wf_write _ _ h)

/-- One step of an operand's read. -/
theorem memRead_succ (mem : Memory) (m : Mode) (a : Addr) (n : Nat) :
    memRead mem m a (n + 1) =
      match mem.read (wrapAddr m a).toNat, memRead mem m (a + 1#64) n with
      | some b, some rest => some (rest <<< 8 ||| b.setWidth 128)
      | _, _ => none := rfl

/-- An operand is read exactly when each of its bytes is ordinary memory. -/
theorem memRead_isSome (mem : Memory) (m : Mode) (a : Addr) (n : Nat) :
    (memRead mem m a n).isSome = true ↔
      ∀ k, k < n → (mem.read (wrapAddr m (a + BitVec.ofNat 64 k)).toNat).isSome = true := by
  induction n generalizing a with
  | zero => simp [memRead]
  | succ n ih =>
    have step : ∀ k, a + 1#64 + BitVec.ofNat 64 k = a + BitVec.ofNat 64 (k + 1) := fun k => by
      rw [BitVec.add_assoc, ← BitVec.ofNat_add, Nat.add_comm]
    have h1 : (memRead mem m a (n + 1)).isSome = true ↔
        (mem.read (wrapAddr m a).toNat).isSome = true ∧ (memRead mem m (a + 1#64) n).isSome = true := by
      rw [memRead_succ]
      cases mem.read (wrapAddr m a).toNat <;> cases memRead mem m (a + 1#64) n <;> simp
    rw [h1, ih]
    simp only [step]
    constructor
    · rintro ⟨h0, h⟩ k hk
      cases k with
      | zero => simpa using h0
      | succ k => exact h k (by omega)
    · exact fun h => ⟨by simpa using h 0 (by omega), fun k hk => h (k + 1) (by omega)⟩

/-- A read looks at the operand's bytes only. -/
theorem memRead_congr {mem mem' : Memory} {m : Mode} {a : Addr} {n : Nat}
    (h : ∀ k, k < n → mem'.read (wrapAddr m (a + BitVec.ofNat 64 k)).toNat
      = mem.read (wrapAddr m (a + BitVec.ofNat 64 k)).toNat) :
    memRead mem' m a n = memRead mem m a n := by
  induction n generalizing a with
  | zero => rfl
  | succ n ih =>
    have step : ∀ k, a + 1#64 + BitVec.ofNat 64 k = a + BitVec.ofNat 64 (k + 1) := fun k => by
      rw [BitVec.add_assoc, ← BitVec.ofNat_add, Nat.add_comm]
    rw [memRead_succ, memRead_succ, ih fun k hk => by rw [step]; exact h (k + 1) (by omega)]
    have h0 := h 0 (by omega)
    simp only [BitVec.add_zero] at h0
    rw [h0]

/-- Byte `k` of an operand's value is the byte at `addr + k`, and nothing stands above its `n` bytes. -/
theorem memRead_bytes {mem : Memory} {m : Mode} {a : Addr} {n : Nat} {v : Xmm} (hn : n ≤ 16)
    (h : memRead mem m a n = some v) :
    (∀ k, k < n → mem.read (wrapAddr m (a + BitVec.ofNat 64 k)).toNat = some (v.extractLsb' (8 * k) 8))
      ∧ v.toNat < 2 ^ (8 * n) := by
  induction n generalizing a v with
  | zero => simp [memRead] at h; subst h; simp
  | succ n ih =>
    rw [memRead_succ] at h
    split at h
    · next b rest hb hrest =>
      have step : ∀ k, a + 1#64 + BitVec.ofNat 64 k = a + BitVec.ofNat 64 (k + 1) := fun k => by
        rw [BitVec.add_assoc, ← BitVec.ofNat_add, Nat.add_comm]
      obtain ⟨ih1, ih2⟩ := ih (by omega) hrest
      simp only [Option.some.injEq] at h
      subst h
      refine ⟨fun k hk => ?_, ?_⟩
      · cases k with
        | zero =>
          simp only [BitVec.add_zero, hb, Option.some.injEq]
          ext i hi
          simp [BitVec.getLsbD_eq_getElem, hi]
          omega
        | succ k =>
          rw [← step, ih1 k (by omega)]
          congr 1
          refine BitVec.eq_of_getLsbD_eq fun i hi => ?_
          have h1 : ¬ 8 * (k + 1) + i < 8 := by omega
          have h2 : 8 * (k + 1) + i - 8 = 8 * k + i := by omega
          have h3 : 8 * (k + 1) + i < 128 := by omega
          have h4 : b.getLsbD (8 * (k + 1) + i) = false := BitVec.getLsbD_of_ge _ _ (by omega)
          simp only [BitVec.getLsbD_extractLsb', BitVec.getLsbD_or, BitVec.getLsbD_shiftLeft,
            BitVec.getLsbD_setWidth, hi, h1, h2, h3, h4]
          simp
      · have hr : rest.toNat * 256 < 2 ^ (8 * (n + 1)) := by
          rw [Nat.mul_add, Nat.pow_add]
          exact Nat.mul_lt_mul_of_pos_right ih2 (by norm_num)
        have hb' := b.isLt
        have : (8:Nat) * (n + 1) = 8 * n + 8 := by ring
        rw [BitVec.toNat_or]
        refine Nat.or_lt_two_pow ?_ ?_
        · rw [BitVec.toNat_shiftLeft]
          refine lt_of_le_of_lt (Nat.mod_le _ _) ?_
          rw [Nat.shiftLeft_eq]; exact hr
        · rw [BitVec.toNat_setWidth]
          refine lt_of_le_of_lt (Nat.mod_le _ _) (lt_of_lt_of_le hb' (Nat.pow_le_pow_right (by norm_num) (by omega)))
    · cases h

end Sys2Proof.Machine
end

