-- ==== Sys2Proof/Laws/Operands.lean ====
section
/-!
SUPPORT. Everything a memory operand can do: the segment check, then the page check and the alignment check, then
the read.
-/

namespace Sys2Proof.Machine

open Sys2Proof.Safety

/-- The value of a memory operand, in R139's order of checks. -/
theorem readMem_eq (s : State) (m : Mode) (seg : SegReg) (ea : Addr) (n : Nat) :
    s.readMem m seg ea n =
      if s.segmentBad m seg ea n then .fault (segmentFault seg)
      else
        match s.pageFault m (s.linearAddr m seg ea) n with
        | none => if s.misaligned (s.linearAddr m seg ea) n then alignStop n else s.load m (s.linearAddr m seg ea) n
        | some f =>
          if s.misaligned (s.linearAddr m seg ea) n && Config.acBeforePf (s.linearAddr m seg ea) n then alignStop n
          else .fault f := by
  simp only [State.readMem, State.translate]
  cases hb : s.segmentBad m seg ea n with
  | true => simp
  | false => cases s.pageFault m (s.linearAddr m seg ea) n <;> simp

/-- An operand that has a value passed every check and is what memory holds. -/
theorem readMem_next {s : State} {m : Mode} {seg : SegReg} {ea : Addr} {n : Nat} {v : Xmm}
    (h : s.readMem m seg ea n = .next v) :
    s.segmentBad m seg ea n = false ∧ s.pageFault m (s.linearAddr m seg ea) n = none
      ∧ s.misaligned (s.linearAddr m seg ea) n = false
      ∧ memRead s.mem m (s.linearAddr m seg ea) n = some v := by
  have ha : ∀ w, alignStop n ≠ .next w := fun w => by simp only [alignStop]; split <;> simp
  rw [readMem_eq] at h
  cases hb : s.segmentBad m seg ea n with
  | true => simp [hb] at h
  | false =>
    rw [hb] at h
    simp only [Bool.false_eq_true, if_false] at h
    cases hp : s.pageFault m (s.linearAddr m seg ea) n with
    | some f =>
      rw [hp] at h
      simp only at h
      split at h
      · exact absurd h (ha v)
      · cases h
    | none =>
      rw [hp] at h
      simp only at h
      split at h
      · exact absurd h (ha v)
      · next hm =>
        refine ⟨rfl, rfl, by simpa using hm, ?_⟩
        simp only [State.load] at h
        split at h
        · next w hw => simpa [hw] using h
        · cases h

/-- A page fault is `#PF`. -/
theorem pageFault_some {s : State} {m : Mode} {lin : Addr} {n : Nat} {f : Fault}
    (h : s.pageFault m lin n = some f) : ∃ code linear, f = .pf code linear := by
  simp only [State.pageFault] at h
  split at h
  · split at h
    · cases h
    · simp only [Option.some.injEq, reportedPageFault] at h
      exact ⟨_, _, h.symm⟩
  · cases h

/-- An operand's fault is one of a memory source's. -/
theorem readMem_fault {s : State} {m : Mode} {seg : SegReg} {ea : Addr} {n : Nat} {f : Fault}
    (h : s.readMem m seg ea n = .fault f) : MemoryFault f := by
  have ha : alignStop n = .fault f → MemoryFault f := by
    simp only [alignStop]
    split
    · exact fun h => by cases h
    · exact fun h => by cases h; exact .inr (.inr (.inl rfl))
  rw [readMem_eq] at h
  split at h
  · cases h
    simp only [segmentFault, MemoryFault]
    split <;> simp
  · split at h
    · split at h
      · exact ha h
      · simp only [State.load] at h
        split at h <;> cases h
    · next g hg =>
      obtain ⟨code, linear, rfl⟩ := pageFault_some hg
      split at h
      · exact ha h
      · cases h
        exact .inr (.inr (.inr ⟨code, linear, rfl⟩))

/-- A source's fault is one of a memory source's, and only a memory source has one. -/
theorem readSource_fault {s : State} {m : Mode} {ov : Option SegReg} {z : Bool} {n len : Nat} {src : Source}
    {f : Fault} (h : s.readSource m ov z n len src = .fault f) : MemoryFault f ∧ ∃ o, src = .mem o := by
  cases src with
  | reg j => cases h
  | mem o => exact ⟨readMem_fault h, o, rfl⟩

/-- Only a memory source is refused. -/
theorem readSource_refused {s : State} {m : Mode} {ov : Option SegReg} {z : Bool} {n len : Nat} {src : Source}
    {r : Refusal} (h : s.readSource m ov z n len src = .refused r) : ∃ o, src = .mem o := by
  cases src with
  | reg j => cases h
  | mem o => exact ⟨o, rfl⟩

end Sys2Proof.Machine
end

