-- ==== Sys2Proof/Laws/PerInstr.lean ====
section
/-!
SUPPORT. Statements made for every instruction, one lemma for each constructor.
-/

namespace Sys2Proof.Laws.EncodedLength

/-- The encoder's bytes are as many as the instruction's length (30_encoding.md R78). -/
def Statement (i : Instr) : Prop := (encode i).length = i.len

theorem presentByte_length (p : Bool) (b : Byte) : (presentByte p b).length = presentLen p := by
  cases p <;> rfl

theorem optionByte_length {α : Type} (o : Option α) (f : α → Byte) :
    (o.map f).toList.length = presentLen o.isSome := by
  cases o <;> rfl

theorem tail_length (src : Source) : src.encode.tail.length = src.tailLen := by
  cases src with
  | reg j => rfl
  | mem o =>
    cases o with
    | base b d => cases d <;> rfl
    | sib s x b d => cases d <;> rfl
    | sibNoBase s x d => rfl
    | disp32 d => rfl
    | base16 b d => cases d <;> rfl
    | abs16 d => rfl

theorem rex_length (r : RexUse) :
    presentLen (r == .ignored) + presentLen (r == .effective) = presentLen (r != .absent) := by
  cases r <;> rfl

theorem ofLegacy (o : Op) (p : LegacyPrefixes) (dst : RegNum) (src : Source) :
    (View.encode (.legacy o p dst src)).length = legacyLen p src := by
  have := rex_length p.rex
  simp only [View.encode, List.length_append, List.length_cons, List.length_nil, presentByte_length,
    optionByte_length, tail_length, legacyLen]
  omega

theorem ofVex (wide : Bool) (o : Op) (p : VexPrefixes) (vvvv : BitVec 4) (dst : RegNum) (src : Source) :
    (View.encode (.vex wide o p vvvv dst src)).length = vexLen p src := by
  simp only [View.encode, List.length_append, List.length_cons, List.length_nil, presentByte_length,
    optionByte_length, tail_length, vexLen]
  omega

theorem pmovsxbw (p : LegacyPrefixes) (dst : RegNum) (src : Source) :
    Statement (.pmovsxbw p dst src) := ofLegacy _ p dst src

theorem pmovsxbd (p : LegacyPrefixes) (dst : RegNum) (src : Source) :
    Statement (.pmovsxbd p dst src) := ofLegacy _ p dst src

theorem pmovsxbq (p : LegacyPrefixes) (dst : RegNum) (src : Source) :
    Statement (.pmovsxbq p dst src) := ofLegacy _ p dst src

theorem pmovsxwd (p : LegacyPrefixes) (dst : RegNum) (src : Source) :
    Statement (.pmovsxwd p dst src) := ofLegacy _ p dst src

theorem pmovsxwq (p : LegacyPrefixes) (dst : RegNum) (src : Source) :
    Statement (.pmovsxwq p dst src) := ofLegacy _ p dst src

theorem pmovsxdq (p : LegacyPrefixes) (dst : RegNum) (src : Source) :
    Statement (.pmovsxdq p dst src) := ofLegacy _ p dst src

theorem vpmovsxbw128 (p : VexPrefixes) (vvvv : BitVec 4) (dst : RegNum) (src : Source) :
    Statement (.vpmovsxbw128 p vvvv dst src) := ofVex _ _ p vvvv dst src

theorem vpmovsxbd128 (p : VexPrefixes) (vvvv : BitVec 4) (dst : RegNum) (src : Source) :
    Statement (.vpmovsxbd128 p vvvv dst src) := ofVex _ _ p vvvv dst src

theorem vpmovsxbq128 (p : VexPrefixes) (vvvv : BitVec 4) (dst : RegNum) (src : Source) :
    Statement (.vpmovsxbq128 p vvvv dst src) := ofVex _ _ p vvvv dst src

theorem vpmovsxwd128 (p : VexPrefixes) (vvvv : BitVec 4) (dst : RegNum) (src : Source) :
    Statement (.vpmovsxwd128 p vvvv dst src) := ofVex _ _ p vvvv dst src

theorem vpmovsxwq128 (p : VexPrefixes) (vvvv : BitVec 4) (dst : RegNum) (src : Source) :
    Statement (.vpmovsxwq128 p vvvv dst src) := ofVex _ _ p vvvv dst src

theorem vpmovsxdq128 (p : VexPrefixes) (vvvv : BitVec 4) (dst : RegNum) (src : Source) :
    Statement (.vpmovsxdq128 p vvvv dst src) := ofVex _ _ p vvvv dst src

theorem vpmovsxbw256 (p : VexPrefixes) (vvvv : BitVec 4) (dst : RegNum) (src : Source) :
    Statement (.vpmovsxbw256 p vvvv dst src) := ofVex _ _ p vvvv dst src

theorem vpmovsxbd256 (p : VexPrefixes) (vvvv : BitVec 4) (dst : RegNum) (src : Source) :
    Statement (.vpmovsxbd256 p vvvv dst src) := ofVex _ _ p vvvv dst src

theorem vpmovsxbq256 (p : VexPrefixes) (vvvv : BitVec 4) (dst : RegNum) (src : Source) :
    Statement (.vpmovsxbq256 p vvvv dst src) := ofVex _ _ p vvvv dst src

theorem vpmovsxwd256 (p : VexPrefixes) (vvvv : BitVec 4) (dst : RegNum) (src : Source) :
    Statement (.vpmovsxwd256 p vvvv dst src) := ofVex _ _ p vvvv dst src

theorem vpmovsxwq256 (p : VexPrefixes) (vvvv : BitVec 4) (dst : RegNum) (src : Source) :
    Statement (.vpmovsxwq256 p vvvv dst src) := ofVex _ _ p vvvv dst src

theorem vpmovsxdq256 (p : VexPrefixes) (vvvv : BitVec 4) (dst : RegNum) (src : Source) :
    Statement (.vpmovsxdq256 p vvvv dst src) := ofVex _ _ p vvvv dst src

end Sys2Proof.Laws.EncodedLength
end

