-- ==== Sys2Proof/Tests/Slice0.lean ====
section
/-!
SUPPORT. Tests of the decoder, the well-formedness check, every form and every fault, with the words and values of
95_test_vectors.md, and for each statement that has hypotheses a witness that meets them. Each runs one step.
-/

namespace Sys2Proof.Tests

open Sys2Proof.Machine
open Sys2Proof.Safety

/-! ## The states the tests start from -/

/-- The value `OLD` of 95_test_vectors.md section 2.2. -/
def old : Ymm := 0xBFBEBDBCBBBAB9B8B7B6B5B4B3B2B1B0AFAEADACABAAA9A8A7A6A5A4A3A2A1A0#256

/-- The value `S` of section 2.2, with an upper half of its own. -/
def valueS : Ymm := 0x123456789ABCDEF00FEDCBA9876543218F7E6D5C4B3A2910C381FEFF807F0100#256

/-- The 32 bytes of section 2.5. -/
def data : List Byte :=
  [0x80#8, 0x7F#8, 0xFF#8, 0x01#8, 0x00#8, 0xFE#8, 0x40#8, 0xC0#8, 0x00#8, 0x80#8, 0xFF#8, 0x7F#8, 0x34#8, 0x12#8,
    0xCC#8, 0xED#8] ++
  [0x78#8, 0x56#8, 0x34#8, 0x12#8, 0xF0#8, 0xDE#8, 0xBC#8, 0x9A#8, 0x00#8, 0x00#8, 0x00#8, 0x80#8, 0xFF#8, 0xFF#8,
    0xFF#8, 0x7F#8]

/-- `Env0` of section 5 in 64-bit mode: every feature and enable on; `ymm1` = `OLD`, `ymm2` holds `S`, RAX = 2003H,
and the bytes of section 2.5 at 2000H. -/
def env0 : State :=
  { State.reset with
    opMode := .protectedMode
    lma := true
    csL := true
    cr0 := 0x10#64
    cr4 := 0x40200#64
    xcr0 := 7#64
    pc := 0x1000#64
    segs := .flat
    ymm := (State.reset.ymm.set 1 old).set 2 valueS
    x := State.reset.x.set 0 0x2003#64
    mem := State.reset.mem.writeBytes .mode64 0x2000#64 data }

/-- `Env0` in 32-bit mode. -/
def env32 : State := { env0 with csL := false, csD := true }

/-- Alignment checking in force. -/
def acOn (s : State) : State := { s with cr0 := 0x40010#64, eflags := 0x40002#64, cpl := 3#2 }

/-- RAX with another value. -/
def withRax (s : State) (a : Addr) : State := { s with x := s.x.set 0 a }

/-- Paging on with one user page of 4096 bytes at 2000H. -/
def paged (s : State) : State := { s with paging := true, pages := [⟨0x2000, 0x1000, .user⟩] }

/-- A register and `pc` after a step. -/
def after (r : RegNum) : Host.Outcome State Fault Refusal → Option (Ymm × Addr)
  | .next t => some (t.ymmGet r, t.pc)
  | _ => none

/-- The fault of a step. -/
def faultOf : Host.Outcome State Fault Refusal → Option Fault
  | .fault f => some f
  | _ => none

/-- The refusal of a step. -/
def refusalOf : Host.Outcome State Fault Refusal → Option Refusal
  | .refused r => some r
  | _ => none

/-- One step on the bytes given, placed at `pc`. -/
def run1 (s : State) (bs : List Byte) : Host.Outcome State Fault Refusal := step (s.loadAtPc bs)

/-- The instruction the decoder reads, with nothing left over. -/
def insnOf (m : Mode) (bs : List Byte) : Option Instr :=
  match decode m bs with
  | .insn i [] => some i
  | _ => none

/-- The bytes `[RAX]` addresses. -/
def atRax : Source := .mem (.base 0#4 .none)

/-! ## Well-formedness: what each check refuses -/

theorem test_wf_accepts :
    (Instr.pmovsxbw ⟨true, some .ss, true, .effective⟩ 15#4 (.mem (.sib 3#2 12#4 13#4 (.disp8 1#8)))).wellFormed .mode64 = true := by decide

theorem test_wf_dst_needs_rex : (Instr.pmovsxbw plainLegacy 8#4 (.reg 1#4)).wellFormed .mode64 = false := by decide

theorem test_wf_src_needs_rex : (Instr.pmovsxbw plainLegacy 1#4 (.reg 8#4)).wellFormed .mode64 = false := by decide

theorem test_wf_no_rex_in_mode32 :
    (Instr.pmovsxbw ⟨false, none, false, .effective⟩ 1#4 (.reg 2#4)).wellFormed .mode32 = false := by decide

theorem test_wf_vex_dst_in_mode32 :
    (Instr.vpmovsxbd128 plainVex 15#4 8#4 (.reg 2#4)).wellFormed .mode32 = false := by decide

theorem test_wf_vex_rex_in_mode32 :
    (Instr.vpmovsxbd128 ⟨none, none, false, false, true⟩ 15#4 1#4 (.reg 2#4)).wellFormed .mode32 = false := by decide

theorem test_wf_vvvv0111_in_mode32 :
    (Instr.vpmovsxbd128 plainVex 7#4 1#4 (.reg 2#4)).wellFormed .mode32 = false := by decide

theorem test_wf_vex_src_in_mode32 :
    (Instr.vpmovsxbd256 plainVex 15#4 1#4 (.reg 8#4)).wellFormed .mode32 = false := by decide

theorem test_wf_base_four_needs_sib :
    (Instr.pmovsxbd plainLegacy 1#4 (.mem (.base 4#4 .none))).wellFormed .mode64 = false := by decide

theorem test_wf_base_five_needs_displacement :
    (Instr.vpmovsxbd256 plainVex 15#4 1#4 (.mem (.base 13#4 .none))).wellFormed .mode64 = false := by decide

theorem test_wf_base_needs_rex :
    (Instr.pmovsxbd plainLegacy 1#4 (.mem (.base 9#4 .none))).wellFormed .mode64 = false := by decide

theorem test_wf_sib_base_five_needs_displacement :
    (Instr.pmovsxbq plainLegacy 1#4 (.mem (.sib 0#2 1#4 5#4 .none))).wellFormed .mode64 = false := by decide

theorem test_wf_sib_index_needs_rex :
    (Instr.pmovsxbq plainLegacy 1#4 (.mem (.sib 0#2 9#4 3#4 .none))).wellFormed .mode64 = false := by decide

theorem test_wf_sib_no_base_index_needs_rex :
    (Instr.pmovsxbq plainLegacy 1#4 (.mem (.sibNoBase 0#2 9#4 0#32))).wellFormed .mode64 = false := by decide

theorem test_wf_table16_needs_67 :
    (Instr.pmovsxwq plainLegacy 1#4 (.mem (.base16 .bxSi .none))).wellFormed .mode32 = false := by decide

theorem test_wf_abs16_not_in_mode64 :
    (Instr.pmovsxwq ⟨false, none, true, .absent⟩ 1#4 (.mem (.abs16 0#16))).wellFormed .mode64 = false := by decide

theorem test_wf_bp_needs_displacement :
    (Instr.pmovsxwq ⟨false, none, true, .absent⟩ 1#4 (.mem (.base16 .bp .none))).wellFormed .mode32 = false := by decide

theorem test_wf_table32_not_under_67 :
    (Instr.pmovsxwq ⟨false, none, true, .absent⟩ 1#4 (.mem (.disp32 0#32))).wellFormed .mode32 = false := by decide

theorem test_wf_sib_not_under_67 :
    ((Instr.pmovsxwq ⟨false, none, true, .absent⟩ 1#4 (.mem (.sib 0#2 1#4 3#4 .none))).wellFormed .mode32
      || (Instr.pmovsxwq ⟨false, none, true, .absent⟩ 1#4 (.mem (.sibNoBase 0#2 1#4 0#32))).wellFormed .mode32
      || (Instr.pmovsxwq ⟨false, none, true, .absent⟩ 1#4 (.mem (.base 3#4 .none))).wellFormed .mode32) = false := by decide

/-! ## Decoding: the words of 95_test_vectors.md section 3 -/

/-- Rows `66 0F 38 20 CA` to `25 CA`. -/
theorem test_decode_legacy_words :
    insnOf .mode64 [0x66#8, 0x0F#8, 0x38#8, 0x20#8, 0xCA#8]
        = some (.pmovsxbw plainLegacy 1#4 (.reg 2#4))
    ∧ insnOf .mode64 [0x66#8, 0x0F#8, 0x38#8, 0x21#8, 0xCA#8]
        = some (.pmovsxbd plainLegacy 1#4 (.reg 2#4))
    ∧ insnOf .mode64 [0x66#8, 0x0F#8, 0x38#8, 0x22#8, 0xCA#8]
        = some (.pmovsxbq plainLegacy 1#4 (.reg 2#4))
    ∧ insnOf .mode64 [0x66#8, 0x0F#8, 0x38#8, 0x23#8, 0xCA#8]
        = some (.pmovsxwd plainLegacy 1#4 (.reg 2#4))
    ∧ insnOf .mode64 [0x66#8, 0x0F#8, 0x38#8, 0x24#8, 0xCA#8]
        = some (.pmovsxwq plainLegacy 1#4 (.reg 2#4))
    ∧ insnOf .mode64 [0x66#8, 0x0F#8, 0x38#8, 0x25#8, 0xCA#8]
        = some (.pmovsxdq plainLegacy 1#4 (.reg 2#4)) := by decide

/-- Rows `C4 E2 79 20 CA` to `25 CA`. -/
theorem test_decode_vex128_words :
    insnOf .mode64 [0xC4#8, 0xE2#8, 0x79#8, 0x20#8, 0xCA#8]
        = some (.vpmovsxbw128 plainVex 15#4 1#4 (.reg 2#4))
    ∧ insnOf .mode64 [0xC4#8, 0xE2#8, 0x79#8, 0x21#8, 0xCA#8]
        = some (.vpmovsxbd128 plainVex 15#4 1#4 (.reg 2#4))
    ∧ insnOf .mode64 [0xC4#8, 0xE2#8, 0x79#8, 0x22#8, 0xCA#8]
        = some (.vpmovsxbq128 plainVex 15#4 1#4 (.reg 2#4))
    ∧ insnOf .mode64 [0xC4#8, 0xE2#8, 0x79#8, 0x23#8, 0xCA#8]
        = some (.vpmovsxwd128 plainVex 15#4 1#4 (.reg 2#4))
    ∧ insnOf .mode64 [0xC4#8, 0xE2#8, 0x79#8, 0x24#8, 0xCA#8]
        = some (.vpmovsxwq128 plainVex 15#4 1#4 (.reg 2#4))
    ∧ insnOf .mode64 [0xC4#8, 0xE2#8, 0x79#8, 0x25#8, 0xCA#8]
        = some (.vpmovsxdq128 plainVex 15#4 1#4 (.reg 2#4)) := by decide

/-- Rows `C4 E2 7D 20 CA` to `25 CA`. -/
theorem test_decode_vex256_words :
    insnOf .mode64 [0xC4#8, 0xE2#8, 0x7D#8, 0x20#8, 0xCA#8]
        = some (.vpmovsxbw256 plainVex 15#4 1#4 (.reg 2#4))
    ∧ insnOf .mode64 [0xC4#8, 0xE2#8, 0x7D#8, 0x21#8, 0xCA#8]
        = some (.vpmovsxbd256 plainVex 15#4 1#4 (.reg 2#4))
    ∧ insnOf .mode64 [0xC4#8, 0xE2#8, 0x7D#8, 0x22#8, 0xCA#8]
        = some (.vpmovsxbq256 plainVex 15#4 1#4 (.reg 2#4))
    ∧ insnOf .mode64 [0xC4#8, 0xE2#8, 0x7D#8, 0x23#8, 0xCA#8]
        = some (.vpmovsxwd256 plainVex 15#4 1#4 (.reg 2#4))
    ∧ insnOf .mode64 [0xC4#8, 0xE2#8, 0x7D#8, 0x24#8, 0xCA#8]
        = some (.vpmovsxwq256 plainVex 15#4 1#4 (.reg 2#4))
    ∧ insnOf .mode64 [0xC4#8, 0xE2#8, 0x7D#8, 0x25#8, 0xCA#8]
        = some (.vpmovsxdq256 plainVex 15#4 1#4 (.reg 2#4)) := by decide

/-- The rows on `W`, `R` and `B`. -/
theorem test_decode_extension_bits :
    insnOf .mode64 [0xC4#8, 0xE2#8, 0xF9#8, 0x20#8, 0xCA#8]
        = some (.vpmovsxbw128 plainVex 15#4 1#4 (.reg 2#4))
    ∧ insnOf .mode64 [0x66#8, 0x48#8, 0x0F#8, 0x38#8, 0x20#8, 0xCA#8]
        = some (.pmovsxbw ⟨false, none, false, .effective⟩ 1#4 (.reg 2#4))
    ∧ insnOf .mode64 [0x66#8, 0x45#8, 0x0F#8, 0x38#8, 0x20#8, 0xCA#8]
        = some (.pmovsxbw ⟨false, none, false, .effective⟩ 9#4 (.reg 10#4))
    ∧ insnOf .mode64 [0xC4#8, 0x42#8, 0x79#8, 0x20#8, 0xCA#8]
        = some (.vpmovsxbw128 plainVex 15#4 9#4 (.reg 10#4)) := by decide

/-- The rows with a memory operand in 64-bit mode. -/
theorem test_decode_memory_forms :
    insnOf .mode64 [0x66#8, 0x0F#8, 0x38#8, 0x20#8, 0x00#8]
        = some (.pmovsxbw plainLegacy 0#4 (.mem (.base 0#4 .none)))
    ∧ insnOf .mode64 [0xC4#8, 0xE2#8, 0x7D#8, 0x21#8, 0x5E#8, 0x08#8]
        = some (.vpmovsxbd256 plainVex 15#4 3#4 (.mem (.base 6#4 (.disp8 8#8))))
    ∧ insnOf .mode64 [0x66#8, 0x0F#8, 0x38#8, 0x22#8, 0xAC#8, 0x8B#8, 0x00#8, 0x01#8, 0x00#8, 0x00#8]
        = some (.pmovsxbq plainLegacy 5#4 (.mem (.sib 2#2 1#4 3#4 (.disp32 0x100#32))))
    ∧ insnOf .mode64 [0xC4#8, 0x42#8, 0x7D#8, 0x24#8, 0x65#8, 0x00#8]
        = some (.vpmovsxwq256 plainVex 15#4 12#4 (.mem (.base 13#4 (.disp8 0#8))))
    ∧ insnOf .mode64 [0x66#8, 0x41#8, 0x0F#8, 0x38#8, 0x23#8, 0x3C#8, 0x24#8]
        = some (.pmovsxwd ⟨false, none, false, .effective⟩ 7#4 (.mem (.sib 0#2 4#4 12#4 .none)))
    ∧ insnOf .mode64 [0x66#8, 0x0F#8, 0x38#8, 0x23#8, 0x3C#8, 0x24#8]
        = some (.pmovsxwd plainLegacy 7#4 (.mem (.sib 0#2 4#4 4#4 .none)))
    ∧ insnOf .mode64 [0x66#8, 0x0F#8, 0x38#8, 0x21#8, 0x74#8, 0x45#8, 0xF8#8]
        = some (.pmovsxbd plainLegacy 6#4 (.mem (.sib 1#2 0#4 5#4 (.disp8 0xF8#8))))
    ∧ insnOf .mode64 [0xC4#8, 0xA2#8, 0x79#8, 0x21#8, 0x8C#8, 0xCA#8, 0x78#8, 0x56#8, 0x34#8, 0x12#8]
        = some (.vpmovsxbd128 plainVex 15#4 1#4 (.mem (.sib 3#2 9#4 2#4 (.disp32 0x12345678#32))))
    ∧ insnOf .mode64 [0xC4#8, 0xE2#8, 0x7D#8, 0x25#8, 0x05#8, 0x10#8, 0x00#8, 0x00#8, 0x00#8]
        = some (.vpmovsxdq256 plainVex 15#4 0#4 (.mem (.disp32 0x10#32)))
    ∧ insnOf .mode64 [0x64#8, 0x66#8, 0x0F#8, 0x38#8, 0x25#8, 0x57#8, 0xFC#8]
        = some (.pmovsxdq ⟨false, some .fs, false, .absent⟩ 2#4 (.mem (.base 7#4 (.disp8 0xFC#8))))
    ∧ insnOf .mode64 [0x67#8, 0x66#8, 0x0F#8, 0x38#8, 0x20#8, 0x18#8]
        = some (.pmovsxbw ⟨false, none, true, .absent⟩ 3#4 (.mem (.base 0#4 .none))) := by decide

/-- The rows in 32-bit mode. -/
theorem test_decode_mode32_words :
    insnOf .mode32 [0x66#8, 0x0F#8, 0x38#8, 0x20#8, 0x4D#8, 0x08#8]
        = some (.pmovsxbw plainLegacy 1#4 (.mem (.base 5#4 (.disp8 8#8))))
    ∧ insnOf .mode32 [0xC4#8, 0xE2#8, 0x7D#8, 0x21#8, 0x3C#8, 0x8C#8]
        = some (.vpmovsxbd256 plainVex 15#4 7#4 (.mem (.sib 2#2 1#4 4#4 .none)))
    ∧ insnOf .mode32 [0xC4#8, 0xE2#8, 0x7D#8, 0x25#8, 0x15#8, 0x00#8, 0x10#8, 0x00#8, 0x00#8]
        = some (.vpmovsxdq256 plainVex 15#4 2#4 (.mem (.disp32 0x1000#32)))
    ∧ insnOf .mode32 [0x67#8, 0x66#8, 0x0F#8, 0x38#8, 0x24#8, 0x58#8, 0x02#8]
        = some (.pmovsxwq ⟨false, none, true, .absent⟩ 3#4 (.mem (.base16 .bxSi (.disp8 2#8))))
    ∧ insnOf .mode32 [0x67#8, 0x66#8, 0x0F#8, 0x38#8, 0x22#8, 0x46#8, 0x00#8]
        = some (.pmovsxbq ⟨false, none, true, .absent⟩ 0#4 (.mem (.base16 .bp (.disp8 0#8)))) := by decide

/-- The rows that are no form in scope, and `C5H` and a truncated form. -/
theorem test_decode_not_in_scope :
    decode .mode32 [0xC4#8, 0x62#8, 0x79#8, 0x20#8, 0xCA#8] = .notInScope
    ∧ decode .mode64 [0x0F#8, 0x38#8, 0x20#8, 0xCA#8, 0x00#8] = .notInScope
    ∧ decode .mode64 [0x66#8, 0x0F#8, 0x38#8, 0x26#8, 0xCA#8] = .notInScope
    ∧ decode .mode64 [0x66#8, 0x0F#8, 0x38#8, 0x1F#8, 0xCA#8] = .notInScope
    ∧ decode .mode64 [0xC4#8, 0xE1#8, 0x79#8, 0x20#8, 0xCA#8] = .notInScope
    ∧ decode .mode64 [0xC4#8, 0xE2#8, 0x78#8, 0x20#8, 0xCA#8] = .notInScope
    ∧ decode .mode64 [0xC5#8, 0xF9#8, 0x20#8, 0xCA#8] = .notInScope
    ∧ decode .mode64 [0x66#8, 0x0F#8, 0x38#8, 0x20#8, 0x4D#8] = .notInScope
    ∧ decode .mode64 [0x66#8, 0x0F#8, 0x3A#8, 0x20#8, 0xCA#8] = .notInScope
    ∧ decode .mode64 [0x62#8, 0xF2#8, 0x7D#8, 0x08#8, 0x20#8, 0xCA#8] = .notInScope
    ∧ decode .mode64 [0x90#8] = .notInScope
    ∧ decode .mode32 [0x66#8, 0x45#8, 0x0F#8, 0x38#8, 0x20#8, 0xCA#8] = .notInScope := by decide

/-- The rows that are refused, and `vvvv` = 0111b in 32-bit mode. -/
theorem test_decode_refused :
    decode .mode64 [0xF3#8, 0x66#8, 0x0F#8, 0x38#8, 0x20#8, 0xCA#8] = .refused .repBeforeLegacy
    ∧ decode .mode64 [0x2E#8, 0x3E#8, 0x66#8, 0x0F#8, 0x38#8, 0x20#8, 0x00#8] = .refused .repeatedPrefix
    ∧ decode .mode64 [0x67#8, 0x67#8, 0x66#8, 0x0F#8, 0x38#8, 0x20#8, 0x00#8] = .refused .repeatedPrefix
    ∧ decode .mode64 [0x66#8, 0x40#8, 0x41#8, 0x0F#8, 0x38#8, 0x20#8, 0xCA#8] = .refused .repeatedPrefix
    ∧ decode .mode64 [0x64#8, 0x65#8, 0xC4#8, 0xE2#8, 0x79#8, 0x20#8, 0xCA#8] = .refused .repeatedPrefix
    ∧ decode .mode32 [0xC4#8, 0xE2#8, 0x39#8, 0x20#8, 0xCA#8] = .refused .vvvv0111 := by decide

/-- R61, R62: 67H after 66H, and a REX byte that another prefix follows is ignored. -/
theorem test_decode_prefix_order :
    insnOf .mode64 [0x66#8, 0x67#8, 0x0F#8, 0x38#8, 0x20#8, 0x18#8]
        = some (.pmovsxbw ⟨false, none, true, .absent⟩ 3#4 (.mem (.base 0#4 .none)))
    ∧ insnOf .mode64 [0x45#8, 0x66#8, 0x0F#8, 0x38#8, 0x20#8, 0xCA#8]
        = some (.pmovsxbw ⟨false, none, false, .ignored⟩ 1#4 (.reg 2#4)) := by decide

/-- R80: its four answers. -/
theorem test_decode_answers :
    decodeAnswer .mode64 [0x66#8, 0x0F#8, 0x38#8, 0x20#8, 0xCA#8]
        = .insn (.pmovsxbw plainLegacy 1#4 (.reg 2#4)) 5
    ∧ decodeAnswer .mode64 [0xF0#8, 0x66#8, 0x0F#8, 0x38#8, 0x20#8, 0xCA#8] = .ud
    ∧ decodeAnswer .mode64 [0xC4#8, 0xE2#8, 0x71#8, 0x20#8, 0xCA#8] = .ud
    ∧ decodeAnswer .mode64 [0xF3#8, 0x66#8, 0x0F#8, 0x38#8, 0x20#8, 0xCA#8]
        = .refused .repBeforeLegacy
    ∧ decodeAnswer .mode64 [0x66#8, 0x0F#8, 0x38#8, 0x26#8, 0xCA#8] = .notInScope := by decide

/-- Words of spec/opcode_table.json, and the next step from reset running them. -/
theorem test_table_words :
    decodeTableWord 32 0x660F3820 = some (.pmovsxbw plainLegacy 0#4 (.mem (.base 0#4 .none)))
    ∧ decodeTableWord 32 0xC4020525 = some (.vpmovsxdq256 plainVex 0#4 8#4 (.mem (.base 8#4 .none)))
    ∧ after 0#4 (step (State.reset.withFetchWord 32 0x660F3820)) = some (0#256, 0xFFFFFFF5#64)
    ∧ faultOf (step (State.reset.withFetchWord 32 0xC4020525)) = some .ud := by decide

/-- Log 34: bytes with a cause of `#UD` and a cause of refusal are refused. -/
theorem test_decode_ud_and_refused :
    decode .mode64 [0x66#8, 0x66#8, 0xC4#8, 0xE2#8, 0x79#8, 0x20#8, 0xCA#8] = .refused .repeatedPrefix
    ∧ decode .mode64 [0xF0#8, 0x66#8, 0x66#8, 0x0F#8, 0x38#8, 0x20#8, 0xCA#8] = .refused .repeatedPrefix
    ∧ decode .mode32 [0xF0#8, 0xC4#8, 0xE2#8, 0x39#8, 0x20#8, 0xCA#8] = .refused .vvvv0111 := by decide

/-! ## Values: one step of every form -/

/-- Section 2.2, legacy column. -/
theorem test_pmovsxbw_register :
    after 1#4 (run1 env0 [0x66#8, 0x0F#8, 0x38#8, 0x20#8, 0xCA#8])
      = some (0xBFBEBDBCBBBAB9B8B7B6B5B4B3B2B1B0FFC3FF81FFFEFFFFFF80007F00010000#256, 0x1005#64) := by decide

/-- Section 2.5, the row at 2003H. -/
theorem test_pmovsxbw_memory :
    after 1#4 (run1 env0 [0x66#8, 0x0F#8, 0x38#8, 0x20#8, 0x08#8])
      = some (0xBFBEBDBCBBBAB9B8B7B6B5B4B3B2B1B0FFFFFF800000FFC00040FFFE00000001#256, 0x1005#64) := by decide

/-- Section 2.2, legacy column. -/
theorem test_pmovsxbd_register :
    after 1#4 (run1 env0 [0x66#8, 0x0F#8, 0x38#8, 0x21#8, 0xCA#8])
      = some (0xBFBEBDBCBBBAB9B8B7B6B5B4B3B2B1B0FFFFFF800000007F0000000100000000#256, 0x1005#64) := by decide

/-- Section 2.5, the row at 2003H. -/
theorem test_pmovsxbd_memory :
    after 1#4 (run1 env0 [0x66#8, 0x0F#8, 0x38#8, 0x21#8, 0x08#8])
      = some (0xBFBEBDBCBBBAB9B8B7B6B5B4B3B2B1B000000040FFFFFFFE0000000000000001#256, 0x1005#64) := by decide

/-- Section 2.2, legacy column. -/
theorem test_pmovsxbq_register :
    after 1#4 (run1 env0 [0x66#8, 0x0F#8, 0x38#8, 0x22#8, 0xCA#8])
      = some (0xBFBEBDBCBBBAB9B8B7B6B5B4B3B2B1B000000000000000010000000000000000#256, 0x1005#64) := by decide

/-- Section 2.5, the row at 2003H. -/
theorem test_pmovsxbq_memory :
    after 1#4 (run1 env0 [0x66#8, 0x0F#8, 0x38#8, 0x22#8, 0x08#8])
      = some (0xBFBEBDBCBBBAB9B8B7B6B5B4B3B2B1B000000000000000000000000000000001#256, 0x1005#64) := by decide

/-- Section 2.2, legacy column. -/
theorem test_pmovsxwd_register :
    after 1#4 (run1 env0 [0x66#8, 0x0F#8, 0x38#8, 0x23#8, 0xCA#8])
      = some (0xBFBEBDBCBBBAB9B8B7B6B5B4B3B2B1B0FFFFC381FFFFFEFFFFFF807F00000100#256, 0x1005#64) := by decide

/-- Section 2.5, the row at 2003H. -/
theorem test_pmovsxwd_memory :
    after 1#4 (run1 env0 [0x66#8, 0x0F#8, 0x38#8, 0x23#8, 0x08#8])
      = some (0xBFBEBDBCBBBAB9B8B7B6B5B4B3B2B1B0FFFFFF80000000C0000040FE00000001#256, 0x1005#64) := by decide

/-- Section 2.2, legacy column. -/
theorem test_pmovsxwq_register :
    after 1#4 (run1 env0 [0x66#8, 0x0F#8, 0x38#8, 0x24#8, 0xCA#8])
      = some (0xBFBEBDBCBBBAB9B8B7B6B5B4B3B2B1B0FFFFFFFFFFFF807F0000000000000100#256, 0x1005#64) := by decide

/-- Section 2.5, the row at 2003H. -/
theorem test_pmovsxwq_memory :
    after 1#4 (run1 env0 [0x66#8, 0x0F#8, 0x38#8, 0x24#8, 0x08#8])
      = some (0xBFBEBDBCBBBAB9B8B7B6B5B4B3B2B1B000000000000040FE0000000000000001#256, 0x1005#64) := by decide

/-- Section 2.2, legacy column. -/
theorem test_pmovsxdq_register :
    after 1#4 (run1 env0 [0x66#8, 0x0F#8, 0x38#8, 0x25#8, 0xCA#8])
      = some (0xBFBEBDBCBBBAB9B8B7B6B5B4B3B2B1B0FFFFFFFFC381FEFFFFFFFFFF807F0100#256, 0x1005#64) := by decide

/-- Section 2.5, the row at 2003H. -/
theorem test_pmovsxdq_memory :
    after 1#4 (run1 env0 [0x66#8, 0x0F#8, 0x38#8, 0x25#8, 0x08#8])
      = some (0xBFBEBDBCBBBAB9B8B7B6B5B4B3B2B1B0FFFFFFFFFF8000C00000000040FE0001#256, 0x1005#64) := by decide

/-- Section 2.4, VEX.128 column: source and destination are one register. -/
theorem test_vpmovsxbw128_same_register :
    after 1#4 (run1 env0 [0xC4#8, 0xE2#8, 0x79#8, 0x20#8, 0xC9#8])
      = some (0x00000000000000000000000000000000FFA7FFA6FFA5FFA4FFA3FFA2FFA1FFA0#256, 0x1005#64) := by decide

/-- Section 2.5, the row at 2000H with the upper half zeroed; in 32-bit mode, where R49 wraps addresses. -/
theorem test_vpmovsxbw128_memory :
    after 1#4 (run1 (withRax env32 0x100002000#64) [0xC4#8, 0xE2#8, 0x79#8, 0x20#8, 0x08#8])
      = some (0x00000000000000000000000000000000FFC00040FFFE00000001FFFF007FFF80#256, 0x1005#64) := by decide

/-- Section 2.4, VEX.128 column: source and destination are one register. -/
theorem test_vpmovsxbd128_same_register :
    after 1#4 (run1 env0 [0xC4#8, 0xE2#8, 0x79#8, 0x21#8, 0xC9#8])
      = some (0x00000000000000000000000000000000FFFFFFA3FFFFFFA2FFFFFFA1FFFFFFA0#256, 0x1005#64) := by decide

/-- Section 2.5, the row at 2000H with the upper half zeroed; in 32-bit mode, where R49 wraps addresses. -/
theorem test_vpmovsxbd128_memory :
    after 1#4 (run1 (withRax env32 0x100002000#64) [0xC4#8, 0xE2#8, 0x79#8, 0x21#8, 0x08#8])
      = some (0x0000000000000000000000000000000000000001FFFFFFFF0000007FFFFFFF80#256, 0x1005#64) := by decide

/-- Section 2.4, VEX.128 column: source and destination are one register. -/
theorem test_vpmovsxbq128_same_register :
    after 1#4 (run1 env0 [0xC4#8, 0xE2#8, 0x79#8, 0x22#8, 0xC9#8])
      = some (0x00000000000000000000000000000000FFFFFFFFFFFFFFA1FFFFFFFFFFFFFFA0#256, 0x1005#64) := by decide

/-- Section 2.5, the row at 2000H with the upper half zeroed; in 32-bit mode, where R49 wraps addresses. -/
theorem test_vpmovsxbq128_memory :
    after 1#4 (run1 (withRax env32 0x100002000#64) [0xC4#8, 0xE2#8, 0x79#8, 0x22#8, 0x08#8])
      = some (0x00000000000000000000000000000000000000000000007FFFFFFFFFFFFFFF80#256, 0x1005#64) := by decide

/-- Section 2.4, VEX.128 column: source and destination are one register. -/
theorem test_vpmovsxwd128_same_register :
    after 1#4 (run1 env0 [0xC4#8, 0xE2#8, 0x79#8, 0x23#8, 0xC9#8])
      = some (0x00000000000000000000000000000000FFFFA7A6FFFFA5A4FFFFA3A2FFFFA1A0#256, 0x1005#64) := by decide

/-- Section 2.5, the row at 2000H with the upper half zeroed; in 32-bit mode, where R49 wraps addresses. -/
theorem test_vpmovsxwd128_memory :
    after 1#4 (run1 (withRax env32 0x100002000#64) [0xC4#8, 0xE2#8, 0x79#8, 0x23#8, 0x08#8])
      = some (0x00000000000000000000000000000000FFFFC040FFFFFE00000001FF00007F80#256, 0x1005#64) := by decide

/-- Section 2.4, VEX.128 column: source and destination are one register. -/
theorem test_vpmovsxwq128_same_register :
    after 1#4 (run1 env0 [0xC4#8, 0xE2#8, 0x79#8, 0x24#8, 0xC9#8])
      = some (0x00000000000000000000000000000000FFFFFFFFFFFFA3A2FFFFFFFFFFFFA1A0#256, 0x1005#64) := by decide

/-- Section 2.5, the row at 2000H with the upper half zeroed; in 32-bit mode, where R49 wraps addresses. -/
theorem test_vpmovsxwq128_memory :
    after 1#4 (run1 (withRax env32 0x100002000#64) [0xC4#8, 0xE2#8, 0x79#8, 0x24#8, 0x08#8])
      = some (0x0000000000000000000000000000000000000000000001FF0000000000007F80#256, 0x1005#64) := by decide

/-- Section 2.4, VEX.128 column: source and destination are one register. -/
theorem test_vpmovsxdq128_same_register :
    after 1#4 (run1 env0 [0xC4#8, 0xE2#8, 0x79#8, 0x25#8, 0xC9#8])
      = some (0x00000000000000000000000000000000FFFFFFFFA7A6A5A4FFFFFFFFA3A2A1A0#256, 0x1005#64) := by decide

/-- Section 2.5, the row at 2000H with the upper half zeroed; in 32-bit mode, where R49 wraps addresses. -/
theorem test_vpmovsxdq128_memory :
    after 1#4 (run1 (withRax env32 0x100002000#64) [0xC4#8, 0xE2#8, 0x79#8, 0x25#8, 0x08#8])
      = some (0x00000000000000000000000000000000FFFFFFFFC040FE000000000001FF7F80#256, 0x1005#64) := by decide

/-- Section 2.2, VEX.256 column. -/
theorem test_vpmovsxbw256_register :
    after 1#4 (run1 env0 [0xC4#8, 0xE2#8, 0x7D#8, 0x20#8, 0xCA#8])
      = some (0xFF8F007E006D005C004B003A00290010FFC3FF81FFFEFFFFFF80007F00010000#256, 0x1005#64) := by decide

/-- Section 2.5, the row at 2003H. -/
theorem test_vpmovsxbw256_memory :
    after 1#4 (run1 env0 [0xC4#8, 0xE2#8, 0x7D#8, 0x20#8, 0x08#8])
      = some (0x003400560078FFEDFFCC00120034007FFFFFFF800000FFC00040FFFE00000001#256, 0x1005#64) := by decide

/-- Section 2.2, VEX.256 column. -/
theorem test_vpmovsxbd256_register :
    after 1#4 (run1 env0 [0xC4#8, 0xE2#8, 0x7D#8, 0x21#8, 0xCA#8])
      = some (0xFFFFFFC3FFFFFF81FFFFFFFEFFFFFFFFFFFFFF800000007F0000000100000000#256, 0x1005#64) := by decide

/-- Section 2.5, the row at 2003H. -/
theorem test_vpmovsxbd256_memory :
    after 1#4 (run1 env0 [0xC4#8, 0xE2#8, 0x7D#8, 0x21#8, 0x08#8])
      = some (0xFFFFFFFFFFFFFF8000000000FFFFFFC000000040FFFFFFFE0000000000000001#256, 0x1005#64) := by decide

/-- Section 2.2, VEX.256 column. -/
theorem test_vpmovsxbq256_register :
    after 1#4 (run1 env0 [0xC4#8, 0xE2#8, 0x7D#8, 0x22#8, 0xCA#8])
      = some (0xFFFFFFFFFFFFFF80000000000000007F00000000000000010000000000000000#256, 0x1005#64) := by decide

/-- Section 2.5, the row at 2003H. -/
theorem test_vpmovsxbq256_memory :
    after 1#4 (run1 env0 [0xC4#8, 0xE2#8, 0x7D#8, 0x22#8, 0x08#8])
      = some (0x0000000000000040FFFFFFFFFFFFFFFE00000000000000000000000000000001#256, 0x1005#64) := by decide

/-- Section 2.2, VEX.256 column. -/
theorem test_vpmovsxwd256_register :
    after 1#4 (run1 env0 [0xC4#8, 0xE2#8, 0x7D#8, 0x23#8, 0xCA#8])
      = some (0xFFFF8F7E00006D5C00004B3A00002910FFFFC381FFFFFEFFFFFF807F00000100#256, 0x1005#64) := by decide

/-- Section 2.5, the row at 2003H. -/
theorem test_vpmovsxwd256_memory :
    after 1#4 (run1 env0 [0xC4#8, 0xE2#8, 0x7D#8, 0x23#8, 0x08#8])
      = some (0x00003456000078EDFFFFCC120000347FFFFFFF80000000C0000040FE00000001#256, 0x1005#64) := by decide

/-- Section 2.2, VEX.256 column. -/
theorem test_vpmovsxwq256_register :
    after 1#4 (run1 env0 [0xC4#8, 0xE2#8, 0x7D#8, 0x24#8, 0xCA#8])
      = some (0xFFFFFFFFFFFFC381FFFFFFFFFFFFFEFFFFFFFFFFFFFF807F0000000000000100#256, 0x1005#64) := by decide

/-- Section 2.5, the row at 2003H. -/
theorem test_vpmovsxwq256_memory :
    after 1#4 (run1 env0 [0xC4#8, 0xE2#8, 0x7D#8, 0x24#8, 0x08#8])
      = some (0xFFFFFFFFFFFFFF8000000000000000C000000000000040FE0000000000000001#256, 0x1005#64) := by decide

/-- Section 2.2, VEX.256 column. -/
theorem test_vpmovsxdq256_register :
    after 1#4 (run1 env0 [0xC4#8, 0xE2#8, 0x7D#8, 0x25#8, 0xCA#8])
      = some (0xFFFFFFFF8F7E6D5C000000004B3A2910FFFFFFFFC381FEFFFFFFFFFF807F0100#256, 0x1005#64) := by decide

/-- Section 2.5, the row at 2003H. -/
theorem test_vpmovsxdq256_memory :
    after 1#4 (run1 env0 [0xC4#8, 0xE2#8, 0x7D#8, 0x25#8, 0x08#8])
      = some (0x00000000345678EDFFFFFFFFCC12347FFFFFFFFFFF8000C00000000040FE0001#256, 0x1005#64) := by decide

/-! ## Addresses: 95_test_vectors.md section 4 -/

/-- The linear addresses of section 4's first five rows. -/
theorem test_linear_addresses :
    operandLin (.pmovsxbq plainLegacy 2#4 (.mem (.sib 1#2 1#4 0#4 (.disp8 3#8)))) .mode64
        { env0 with x := (env0.x.set 0 0x2000#64).set 1 1#64 } (.sib 1#2 1#4 0#4 (.disp8 3#8)) = 0x2005#64
    ∧ operandLin (.pmovsxbq plainLegacy 5#4 (.mem (.sib 2#2 1#4 3#4 (.disp32 0x100#32)))) .mode64
        { env0 with x := (env0.x.set 3 0xFFFFFFFFFFFFFFF0#64).set 1 8#64 } (.sib 2#2 1#4 3#4 (.disp32 0x100#32))
        = 0x110#64
    ∧ operandLin (.vpmovsxdq256 plainVex 15#4 3#4 (.mem (.disp32 0xFF5#32))) .mode64 { env0 with pc := 0x1012#64 }
        (.disp32 0xFF5#32) = 0x2010#64
    ∧ operandLin (.pmovsxdq ⟨false, some .fs, false, .absent⟩ 2#4 (.mem (.base 7#4 (.disp8 0xFC#8)))) .mode64
        { env0 with x := env0.x.set 7 0x1000#64, fsbase := 0x7F0000000000#64 } (.base 7#4 (.disp8 0xFC#8))
        = 0x7F0000000FFC#64
    ∧ operandLin (.pmovsxbw ⟨false, none, true, .absent⟩ 3#4 atRax) .mode64 (withRax env0 0x100002000#64)
        (.base 0#4 .none) = 0x2000#64 := by decide

/-- Section 4's last two rows: not canonical, `#GP(0)` by DS and `#SS(0)` by SS. -/
theorem test_not_canonical :
    faultOf (run1 (withRax env0 0x0000800000000000#64) [0x66#8, 0x0F#8, 0x38#8, 0x20#8, 0x00#8]) = some .gp
    ∧ faultOf (run1 { env0 with x := env0.x.set 4 0x0000800000000000#64 }
        [0x66#8, 0x0F#8, 0x38#8, 0x23#8, 0x3C#8, 0x24#8]) = some .ss := by decide

/-! ## Faults: 95_test_vectors.md section 5 -/

/-- The rows on `vvvv`, `L` and the VEX enables. -/
theorem test_ud_vex :
    faultOf (run1 env0 [0xC4#8, 0xE2#8, 0x71#8, 0x20#8, 0xCA#8]) = some .ud
    ∧ faultOf (run1 env0 [0xC4#8, 0xE2#8, 0x01#8, 0x20#8, 0xCA#8]) = some .ud
    ∧ faultOf (run1 env0 [0xC4#8, 0xE2#8, 0x75#8, 0x23#8, 0xCA#8]) = some .ud
    ∧ faultOf (run1 { env0 with featAvx2 := false } [0xC4#8, 0xE2#8, 0x7D#8, 0x20#8, 0xCA#8]) = some .ud
    ∧ faultOf (run1 { env0 with featAvx := false } [0xC4#8, 0xE2#8, 0x79#8, 0x20#8, 0xCA#8]) = some .ud
    ∧ faultOf (run1 { env0 with xcr0 := 3#64 } [0xC4#8, 0xE2#8, 0x79#8, 0x20#8, 0xCA#8]) = some .ud
    ∧ faultOf (run1 { env0 with cr4 := 0x200#64 } [0xC4#8, 0xE2#8, 0x79#8, 0x20#8, 0xCA#8]) = some .ud
    ∧ (after 1#4 (run1 { env0 with cr0 := 0x14#64, cr4 := 0x40000#64 }
        [0xC4#8, 0xE2#8, 0x79#8, 0x20#8, 0xCA#8])).isSome = true := by decide

/-- The rows on the legacy enables. -/
theorem test_ud_legacy :
    faultOf (run1 { env0 with featSse41 := false } [0x66#8, 0x0F#8, 0x38#8, 0x20#8, 0xCA#8]) = some .ud
    ∧ faultOf (run1 { env0 with cr0 := 0x14#64 } [0x66#8, 0x0F#8, 0x38#8, 0x20#8, 0xCA#8]) = some .ud
    ∧ faultOf (run1 { env0 with cr4 := 0x40000#64 } [0x66#8, 0x0F#8, 0x38#8, 0x20#8, 0xCA#8]) = some .ud
    ∧ (after 1#4 (run1 { env0 with xcr0 := 1#64, featAvx := false }
        [0x66#8, 0x0F#8, 0x38#8, 0x20#8, 0xCA#8])).isSome = true := by decide

/-- The rows on prefixes. -/
theorem test_ud_prefixes :
    faultOf (run1 env0 [0xF0#8, 0x66#8, 0x0F#8, 0x38#8, 0x20#8, 0xCA#8]) = some .ud
    ∧ faultOf (run1 env0 [0x66#8, 0xC4#8, 0xE2#8, 0x79#8, 0x20#8, 0xCA#8]) = some .ud
    ∧ faultOf (run1 env0 [0xF3#8, 0xC4#8, 0xE2#8, 0x79#8, 0x20#8, 0xCA#8]) = some .ud
    ∧ faultOf (run1 env0 [0xF0#8, 0xC4#8, 0xE2#8, 0x79#8, 0x20#8, 0xCA#8]) = some .ud
    ∧ faultOf (run1 env0 [0x41#8, 0xC4#8, 0xE2#8, 0x79#8, 0x20#8, 0xCA#8]) = some .ud := by decide

/-- The rows on CR0.TS: `#NM`, and `#UD` before it. -/
theorem test_nm :
    faultOf (run1 { env0 with cr0 := 0x18#64 } [0x66#8, 0x0F#8, 0x38#8, 0x20#8, 0xCA#8]) = some .nm
    ∧ faultOf (run1 { env0 with cr0 := 0x18#64 } [0xC4#8, 0xE2#8, 0x79#8, 0x20#8, 0xCA#8]) = some .nm
    ∧ faultOf (run1 { env0 with cr0 := 0x1C#64 } [0x66#8, 0x0F#8, 0x38#8, 0x20#8, 0xCA#8]) = some .ud := by decide

/-- The error code of a page fault. -/
def pageFaultCodeOf : Host.Outcome State Fault Refusal → Option (BitVec 32)
  | .fault (.pf c _) => some c
  | _ => none

/-- The rows on an unmapped page: the whole operand in it, and its last eight bytes. -/
theorem test_page_fault :
    pageFaultCodeOf (run1 (withRax (paged env0) 0x5000#64) [0x66#8, 0x0F#8, 0x38#8, 0x20#8, 0x00#8]) = some 0#32
    ∧ pageFaultCodeOf (run1 (withRax (paged env0) 0x2FF8#64) [0xC4#8, 0xE2#8, 0x7D#8, 0x20#8, 0x00#8])
        = some 0#32 := by decide

/-- The rows on alignment. -/
theorem test_alignment :
    faultOf (run1 (acOn (withRax env0 0x2001#64)) [0x66#8, 0x0F#8, 0x38#8, 0x23#8, 0x00#8]) = some .ac
    ∧ (after 0#4 (run1 (withRax env0 0x2001#64) [0x66#8, 0x0F#8, 0x38#8, 0x23#8, 0x00#8])).isSome = true
    ∧ refusalOf (run1 (acOn (withRax env0 0x2008#64)) [0xC4#8, 0xE2#8, 0x7D#8, 0x23#8, 0x00#8])
        = some .alignCheck16
    ∧ (after 0#4 (run1 (acOn (withRax env0 0x2010#64)) [0xC4#8, 0xE2#8, 0x7D#8, 0x23#8, 0x00#8])).isSome
        = true := by decide

/-- The stops of the step: a mode out of scope, no form in scope, the decoder's refusal, an instruction that wraps
past the top of the address space, and an operand that is not ordinary memory. -/
theorem test_refusals :
    refusalOf (step State.reset) = some .unsupportedMode
    ∧ refusalOf (run1 env0 [0x90#8]) = some .notInScope
    ∧ refusalOf (run1 env0 [0xF2#8, 0x66#8, 0x0F#8, 0x38#8, 0x20#8, 0xCA#8]) = some (.decoder .repBeforeLegacy)
    ∧ refusalOf (run1 { env0 with pc := 0xFFFFFFFFFFFFFFFC#64 } [0x66#8, 0x0F#8, 0x38#8, 0x20#8, 0xCA#8])
        = some .fetchWraps
    ∧ refusalOf (run1 (withRax env0 0x201F#64) [0x66#8, 0x0F#8, 0x38#8, 0x22#8, 0x00#8])
        = some .notOrdinaryMemory := by decide

/-- R138: the vectors and error codes. -/
theorem test_vectors :
    [Fault.ud, .nm, .ss, .gp, .pf 5#32 0#64, .ac].map (fun f => (f.vector, f.errorCode))
      = [(6, none), (7, none), (12, some 0#32), (13, some 0#32), (14, some 5#32), (17, some 0#32)] := by decide

/-! ## Witnesses: for each statement with hypotheses, a state and operands that meet them -/

/-- Did the outcome answer a next state? -/
def isNext {α : Type} : Host.Outcome α Fault Refusal → Bool
  | .next _ => true
  | _ => false

/-- A source's fault. -/
def readFault : Host.Outcome Xmm Fault Refusal → Option Fault
  | .fault f => some f
  | _ => none

/-- A source's refusal. -/
def readRefusal : Host.Outcome Xmm Fault Refusal → Option Refusal
  | .refused r => some r
  | _ => none

/-- CR0.TS set. -/
def tsOn (s : State) : State := { s with cr0 := 0x18#64 }

/-- The statements of R107 to R112: the mode, and one state for each case of `Behaves`: `#UD`, `#NM`, a source that
faults, one that is refused, one that has a value. -/
theorem witness_legacy_rules (o : Op) :
    env0.mode? = some .mode64
    ∧ (LegacyUd ⟨true, none, false, .absent⟩ env0
        ∧ faultOf (exec (.legacy o ⟨true, none, false, .absent⟩ 1#4 (.reg 2#4)) env0) = some .ud)
    ∧ (¬ LegacyUd plainLegacy (tsOn env0) ∧ (tsOn env0).cr0.getLsbD 3 = true
        ∧ faultOf (exec (.legacy o plainLegacy 1#4 (.reg 2#4)) (tsOn env0)) = some .nm)
    ∧ (¬ LegacyUd plainLegacy (acOn env0) ∧ (acOn env0).cr0.getLsbD 3 = false
        ∧ readFault ((acOn env0).readSource .mode64 none false (operandSize .legacy o) 5 atRax) = some .ac)
    ∧ (¬ LegacyUd plainLegacy (withRax env0 0x201F#64) ∧ (withRax env0 0x201F#64).cr0.getLsbD 3 = false
        ∧ readRefusal ((withRax env0 0x201F#64).readSource .mode64 none false (operandSize .legacy o) 5 atRax)
            = some .notOrdinaryMemory)
    ∧ (¬ LegacyUd plainLegacy env0 ∧ env0.cr0.getLsbD 3 = false
        ∧ isNext (env0.readSource .mode64 none false (operandSize .legacy o) 5 atRax) = true
        ∧ isNext (exec (.legacy o plainLegacy 1#4 atRax) env0) = true) := by
  cases o <;> (unfold LegacyUd; decide)

/-- The statements of R113 to R118: the same five cases. -/
theorem witness_vex128_rules (o : Op) :
    (Vex128Ud plainVex 14#4 env0
        ∧ faultOf (exec (.vex128 o plainVex 14#4 1#4 (.reg 2#4)) env0) = some .ud)
    ∧ (¬ Vex128Ud plainVex 15#4 (tsOn env0) ∧ (tsOn env0).cr0.getLsbD 3 = true
        ∧ faultOf (exec (.vex128 o plainVex 15#4 1#4 (.reg 2#4)) (tsOn env0)) = some .nm)
    ∧ (¬ Vex128Ud plainVex 15#4 (acOn env0) ∧ (acOn env0).cr0.getLsbD 3 = false
        ∧ readFault ((acOn env0).readSource .mode64 none false (operandSize .vex128 o) 5 atRax) = some .ac)
    ∧ (¬ Vex128Ud plainVex 15#4 (withRax env0 0x201F#64)
        ∧ readRefusal ((withRax env0 0x201F#64).readSource .mode64 none false (operandSize .vex128 o) 5 atRax)
            = some .notOrdinaryMemory)
    ∧ (¬ Vex128Ud plainVex 15#4 env0 ∧ env0.cr0.getLsbD 3 = false
        ∧ isNext (env0.readSource .mode64 none false (operandSize .vex128 o) 5 atRax) = true
        ∧ isNext (exec (.vex128 o plainVex 15#4 1#4 atRax) env0) = true) := by
  cases o <;> (unfold Vex128Ud VexBytesUd OsAvxOff; decide)

/-- The statements of R119 to R124: the same five cases; a source of 16 bytes faults on its segment. -/
theorem witness_vex256_rules (o : Op) :
    (Vex256Ud ⟨some .rep, none, false, false, false⟩ 15#4 env0
        ∧ faultOf (exec (.vex256 o ⟨some .rep, none, false, false, false⟩ 15#4 1#4 (.reg 2#4)) env0) = some .ud)
    ∧ (¬ Vex256Ud plainVex 15#4 (tsOn env0) ∧ (tsOn env0).cr0.getLsbD 3 = true
        ∧ faultOf (exec (.vex256 o plainVex 15#4 1#4 (.reg 2#4)) (tsOn env0)) = some .nm)
    ∧ (¬ Vex256Ud plainVex 15#4 (withRax env0 0x0000800000000000#64)
        ∧ (withRax env0 0x0000800000000000#64).cr0.getLsbD 3 = false
        ∧ readFault ((withRax env0 0x0000800000000000#64).readSource .mode64 none false (operandSize .vex256 o) 5
            atRax) = some .gp)
    ∧ (¬ Vex256Ud plainVex 15#4 (withRax env0 0x201F#64)
        ∧ readRefusal ((withRax env0 0x201F#64).readSource .mode64 none false (operandSize .vex256 o) 5 atRax)
            = some .notOrdinaryMemory)
    ∧ (¬ Vex256Ud plainVex 15#4 env0 ∧ env0.cr0.getLsbD 3 = false
        ∧ isNext (env0.readSource .mode64 none false (operandSize .vex256 o) 5 atRax) = true
        ∧ isNext (exec (.vex256 o plainVex 15#4 1#4 atRax) env0) = true) := by
  cases o <;> (unfold Vex256Ud VexBytesUd OsAvxOff; decide)

/-- `DecodeOfEncodeIsTheInstruction`: a well-formed instruction in each mode. -/
theorem witness_DecodeOfEncode :
    (Instr.pmovsxbw ⟨false, some .gs, true, .effective⟩ 9#4 (.mem (.sib 3#2 12#4 13#4 (.disp8 1#8)))).wellFormed
        .mode64 = true
    ∧ (Instr.vpmovsxwq256 plainVex 15#4 7#4 (.mem (.base16 .bp (.disp8 0#8)))).wellFormed .mode32 = false
    ∧ (Instr.vpmovsxwq256 ⟨none, none, false, true, false⟩ 15#4 7#4 (.mem (.base16 .bp (.disp8 0#8)))).wellFormed
        .mode32 = true := by decide

/-- `DecodedInstructionsAreWellFormed` and `DecodeConsumesTheLength`: instructions of 5, 12, 13 and 15 bytes, the
ends of the ranges. -/
theorem witness_DecodeConsumesTheLength :
    (∃ i, decode .mode64 [0x66#8, 0x0F#8, 0x38#8, 0x20#8, 0xCA#8, 0x90#8] = .insn i [0x90#8] ∧ i.len = 5
        ∧ i.udByBytes = false ∧ i.enc = .legacy)
    ∧ (∃ i, decode .mode64 [0x64#8, 0x67#8, 0x66#8, 0x41#8, 0x0F#8, 0x38#8, 0x20#8, 0x84#8, 0x24#8, 0x01#8, 0x02#8,
          0x03#8, 0x04#8] = .insn i [] ∧ i.len = 13 ∧ i.udByBytes = false ∧ i.enc = .legacy)
    ∧ (∃ i, decode .mode64 [0x64#8, 0x67#8, 0xC4#8, 0xE2#8, 0x79#8, 0x20#8, 0x84#8, 0x24#8, 0x01#8, 0x02#8, 0x03#8,
          0x04#8] = .insn i [] ∧ i.len = 12 ∧ i.udByBytes = false ∧ i.enc = .vex128)
    ∧ (∃ i, decode .mode64 [0xF0#8, 0x41#8, 0x66#8, 0x64#8, 0x67#8, 0xC4#8, 0xE2#8, 0x79#8, 0x20#8, 0x84#8, 0x24#8,
          0x01#8, 0x02#8, 0x03#8, 0x04#8] = .insn i [] ∧ i.len = 15 ∧ i.udByBytes = true) :=
  ⟨⟨_, rfl, by decide⟩, ⟨_, rfl, by decide⟩, ⟨_, rfl, by decide⟩, ⟨_, rfl, by decide⟩⟩

/-- `WidthBitsAreIgnored`: prefixes before the VEX and the REX byte. -/
theorem witness_WidthBitsAreIgnored :
    (∀ b ∈ [0x64#8, 0x67#8], (prefixOfByte .mode32 b).isSome = true)
    ∧ (∀ b ∈ [0x66#8, 0x3E#8], (prefixOfByte .mode64 b).isSome = true)
    ∧ (0xF9#8 : Byte) = 0x79#8 ^^^ 0x80#8 := by decide

/-- `BytesOutsideThePatternsAreNotInScope`: prefixes with and without 66H; first bytes that are no prefix, 0FH or C4H
(the EVEX byte 62H, 90H, C5H); a byte after 0FH beside 38H; the opcode bytes beside the table's, the fields of the VEX
prefix beside the table's, and second bytes after `C4H`. -/
theorem witness_BytesOutsideThePatterns :
    AllPrefixes .mode32 [0x67#8, 0x3E#8] ∧ 0x66#8 ∉ [0x67#8, 0x3E#8] ∧ AllPrefixes .mode64 [0x66#8, 0x3E#8]
    ∧ (∀ b ∈ [0x62#8, 0x90#8, 0xC5#8], ∀ m ∈ [Mode.mode32, .mode64],
        prefixOfByte m b = none ∧ b ≠ 0x0F#8 ∧ b ≠ 0xC4#8)
    ∧ (0x3A#8 : Byte) ≠ 0x38#8 ∧ (0x37#8 : Byte) ≠ 0x38#8
    ∧ (0x1F#8 : Byte).toNat < 0x20 ∧ 0x25 < (0x26#8 : Byte).toNat
    ∧ (0xE1#8 : Byte).extractLsb' 0 5 ≠ 2#5 ∧ (0xE3#8 : Byte).extractLsb' 0 5 ≠ 2#5
    ∧ (0x78#8 : Byte).extractLsb' 0 2 ≠ 1#2 ∧ (0x7A#8 : Byte).extractLsb' 0 2 ≠ 1#2
    ∧ field76 0x62#8 ≠ 3#2 ∧ field76 0xBF#8 ≠ 3#2
    ∧ ∃ i, decode .mode64 [0x66#8, 0x0F#8, 0x38#8, 0x20#8, 0x4D#8, 0x08#8] = .insn i [] ∧ 5 < i.len := by
  unfold AllPrefixes
  exact ⟨by decide, by decide, by decide, by decide, by decide, by decide, by decide, by decide, by decide, by decide,
    by decide, by decide, by decide, by decide, _, rfl, by decide⟩

/-- `RedundantPrefixesAreRefused`: a legacy form with and without LOCK. -/
theorem witness_RedundantPrefixes :
    (Instr.legacy .bw plainLegacy 1#4 (.reg 2#4)).wellFormed .mode64 = true
    ∧ (Instr.legacy .bw ⟨true, none, false, .absent⟩ 1#4 (.reg 2#4)).wellFormed .mode32 = true := by decide

/-- The same: prefixes of one group (two segment overrides, two 67H, two REX bytes, LOCK and F2H), and F3H alone. -/
theorem witness_HasRedundant :
    (∀ pre ∈ [[0x2E#8, 0x66#8, 0x3E#8], [0x67#8, 0x66#8, 0x67#8], [0x66#8, 0x40#8, 0x41#8], [0xF0#8, 0x66#8, 0xF2#8]],
      AllPrefixes .mode64 pre ∧ HasRedundant .mode64 pre)
    ∧ AllPrefixes .mode64 [0xF3#8, 0x66#8] ∧ ¬ HasRedundant .mode64 [0xF3#8, 0x66#8]
    ∧ prefixOfByte .mode64 0x0F#8 = none ∧ prefixOfByte .mode64 0xC4#8 = none := by
  unfold AllPrefixes HasRedundant
  decide

/-- The same: forms of both formats that decode with few prefixes, a memory form with 67H and one without. -/
theorem witness_RedundantPrefixes_decode :
    (∃ i, decode .mode64 ([0x66#8] ++ 0x0F#8 :: [0x38#8, 0x20#8, 0xCA#8]) = .insn i [] ∧ i.enc = .legacy)
    ∧ (∃ i, decode .mode64 ([0x66#8, 0x67#8] ++ 0x0F#8 :: [0x38#8, 0x20#8, 0x00#8]) = .insn i [] ∧ i.enc = .legacy)
    ∧ (∃ i, decode .mode64 ([] ++ 0xC4#8 :: [0xE2#8, 0x79#8, 0x20#8, 0xCA#8]) = .insn i [] ∧ i.enc ≠ .legacy) :=
  ⟨⟨_, rfl, by decide⟩, ⟨_, rfl, by decide⟩, ⟨_, rfl, by decide⟩⟩

/-- `OtherVvvvRaiseInvalidOpcodeOrAreRefused`: a VEX form that decodes in each mode, and third bytes with `vvvv` 0111b,
1110b and 0000b. -/
theorem witness_OtherVvvv :
    AllPrefixes .mode32 [0x67#8, 0x3E#8]
    ∧ (∃ i, decode .mode32 ([0x67#8, 0x3E#8] ++ 0xC4#8 :: 0xE2#8 :: 0x79#8 :: [0x20#8, 0xCA#8]) = .insn i [])
    ∧ (∃ i, decode .mode64 ([0x67#8, 0x3E#8] ++ 0xC4#8 :: 0xE2#8 :: 0x79#8 :: [0x20#8, 0xCA#8]) = .insn i [])
    ∧ (0x39#8 : Byte).extractLsb' 3 4 = 7#4 ∧ (0x39#8 : Byte).extractLsb' 0 2 = 1#2
    ∧ (0x71#8 : Byte).extractLsb' 3 4 = 14#4 ∧ (0x01#8 : Byte).extractLsb' 3 4 = 0#4 := by
  unfold AllPrefixes
  exact ⟨by decide, ⟨_, rfl⟩, ⟨_, rfl⟩, by decide, by decide, by decide, by decide⟩

/-- `OtherModesAreRefused`: each way out of the two modes. -/
theorem witness_OtherModes :
    { env0 with opMode := .virtual8086 }.opMode ≠ .protectedMode
    ∧ { env0 with opMode := .systemManagement }.opMode ≠ .protectedMode
    ∧ State.reset.opMode ≠ .protectedMode
    ∧ (({ env0 with lma := false }.lma = false ∨ { env0 with lma := false }.csL = false)
        ∧ { env0 with lma := false }.csD = false)
    ∧ (({ env0 with csL := false }.lma = false ∨ { env0 with csL := false }.csL = false)
        ∧ { env0 with csL := false }.csD = false) := by decide

/-- `InvalidOpcodeExactlyWhenListed` and `DeviceNotAvailableExactlyWhenTaskSwitched`: an instruction that raises
`#UD`, and one that does not with CR0.TS set. -/
theorem witness_InvalidOpcode_DeviceNotAvailable :
    env32.mode? = some .mode32
    ∧ RaisesUd (.vpmovsxbw256 plainVex 15#4 1#4 (.reg 2#4)) { env0 with featAvx2 := false }
    ∧ RaisesUd (.pmovsxbw plainLegacy 1#4 (.reg 2#4)) { env0 with cr0 := 0x14#64 }
    ∧ ¬ RaisesUd (.vpmovsxbw128 plainVex 15#4 1#4 (.reg 2#4)) (tsOn env0) := by
  simp only [RaisesUd, Instr.view, LegacyUd, Vex128Ud, Vex256Ud, VexBytesUd, OsAvxOff]
  decide

/-- `CompletedFormsChangeOnlyDestinationAndPc`, `NoFormWritesMemory`, `FlagsNeitherReadNorWritten`,
`MxcsrNeitherReadNorWritten` and `NoFormIsPrivileged`: forms that complete, a register source, flags that differ but
in AC, and a state without paging and without CR0.AM. -/
theorem witness_frames :
    isNext (exec (.pmovsxbw plainLegacy 1#4 (.reg 2#4)) env0) = true
    ∧ isNext (exec (.vpmovsxdq256 plainVex 15#4 1#4 atRax) env0) = true
    ∧ (Instr.pmovsxbw plainLegacy 1#4 (.reg 2#4)).src = .reg 2#4
    ∧ (0xCD7#64 : BitVec 64).getLsbD 18 = env0.eflags.getLsbD 18
    ∧ env0.paging = false ∧ env0.cr0.getLsbD 18 = false := by decide

/-- A form with a memory operand `[RAX]` of 8 bytes. -/
def readsRax : Instr := .pmovsxwd plainLegacy 1#4 atRax

/-- A form with a memory operand `[RAX]` of 16 bytes. -/
def reads16 : Instr := .vpmovsxbw256 plainVex 15#4 1#4 atRax

/-- A form with a memory operand `[RSP]` of 8 bytes. -/
def readsRsp : Instr := .pmovsxwd plainLegacy 7#4 (.mem (.sib 0#2 4#4 4#4 .none))

/-- A form with a memory operand `[RBP]` of 8 bytes. -/
def readsRbp : Instr := .vpmovsxbd256 plainVex 15#4 7#4 (.mem (.base 5#4 (.disp8 0#8)))

/-- `ReachesOperand` for the four forms, in both modes, with alignment checking and with paging. -/
theorem witness_ReachesOperand (i : Instr) (s : State) (h : i = readsRax ∨ i = reads16)
    (hs : s = env0 ∨ s = acOn env0 ∨ s = paged env0 ∨ s = paged (acOn env0)) :
    ReachesOperand i .mode64 s (.base 0#4 .none) := by
  simp only [ReachesOperand, RaisesUd]
  rcases h with rfl | rfl <;> rcases hs with rfl | rfl | rfl | rfl <;>
    (simp only [readsRax, reads16, Instr.view, LegacyUd, Vex256Ud, VexBytesUd, OsAvxOff]; decide)

/-- `MemorySourcesCompleteAtAnyAlignment`, `OperandBytesAreLittleEndian`: no check fails, at a misaligned address. -/
theorem witness_MemorySourcesComplete :
    ¬ SegmentCheckFails readsRax .mode64 env0 (.base 0#4 .none)
    ∧ ¬ PageCheckFails readsRax .mode64 env0 (.base 0#4 .none)
    ∧ ¬ AlignmentCheckFails readsRax .mode64 env0 (.base 0#4 .none)
    ∧ OperandListed readsRax .mode64 env0 (.base 0#4 .none)
    ∧ (operandLin readsRax .mode64 env0 (.base 0#4 .none)).toNat % 8 = 3
    ∧ isNext (env0.readSource .mode64 none false 8 5 atRax) = true := by
  simp only [SegmentCheckFails, CanonicalNumber, PageCheckFails, PageFaultsAt, AlignmentCheckFails, OperandListed]
  decide

/-- `OnlyTheOperandsBytesAreRead`: another memory that agrees on the operand's bytes, and an operand whose last byte
is not ordinary memory. -/
theorem witness_OnlyTheOperandsBytes :
    ((env0.mem.write 0x2002 0x55#8 ≠ env0.mem)
      ∧ ∀ k, k < operandBytesOf readsRax →
        (env0.mem.write 0x2002 0x55#8).read (operandByte readsRax .mode64 env0 (.base 0#4 .none) k).toNat
          = env0.mem.read (operandByte readsRax .mode64 env0 (.base 0#4 .none) k).toNat)
    ∧ (¬ SegmentCheckFails readsRax .mode64 (withRax env0 0x2019#64) (.base 0#4 .none)
      ∧ ¬ PageCheckFails readsRax .mode64 (withRax env0 0x2019#64) (.base 0#4 .none)
      ∧ ¬ AlignmentCheckFails readsRax .mode64 (withRax env0 0x2019#64) (.base 0#4 .none)
      ∧ ¬ OperandListed readsRax .mode64 (withRax env0 0x2019#64) (.base 0#4 .none)) := by
  simp only [SegmentCheckFails, CanonicalNumber, PageCheckFails, PageFaultsAt, AlignmentCheckFails, OperandListed]
  decide

/-- 32-bit mode with one segment changed. -/
def withDs (d : SegDesc) : State := { env32 with segs := { env32.segs with ds := d } }

/-- A segment whose limit takes in every 32-bit offset. -/
def fullRange : SegDesc := ⟨some ⟨0#32, 0xFFFFFFFF#32⟩, false, true⟩

/-- R50: the flat segments have no limit, and their translation is the identity: eight bytes at the last one's
offset FFFFFFF9H (log 17: the byte after FFFFFFFFH is at 0). -/
theorem test_flat_segments_have_no_limit :
    (match env32.translate .mode32 .ds 0xFFFFFFF9#64 8 with
      | .ok lin => lin == 0xFFFFFFF9#64
      | .error _ => false) = true
    ∧ isNext (exec readsRax { withRax env32 0xFFFFFFF9#64 with
        mem := env32.mem.writeBytes .mode32 0xFFFFFFF9#64 (data.take 8) }) = true
    ∧ faultOf (exec readsRax (withRax (withDs fullRange) 0xFFFFFFF9#64)) = some .gp := by decide

/-- `SegmentFaultsAreStackOrGeneralProtection`: in 64-bit mode the last byte alone not canonical, by DS and by SS. -/
theorem witness_SegmentFaults :
    SegmentCheckFails readsRax .mode64 (withRax env0 0x00007FFFFFFFFFF9#64) (.base 0#4 .none)
    ∧ ¬ SegmentCheckFails readsRax .mode64 (withRax env0 0x00007FFFFFFFFFF8#64) (.base 0#4 .none)
    ∧ SegmentCheckFails readsRsp .mode64 { env0 with x := env0.x.set 4 0xFFFF7FFFFFFFFFFF#64 }
        (.sib 0#2 4#4 4#4 .none)
    ∧ ¬ SegmentCheckFails readsRsp .mode64 { env0 with x := env0.x.set 4 0xFFFF800000000000#64 }
        (.sib 0#2 4#4 4#4 .none) := by
  simp only [SegmentCheckFails, CanonicalNumber]
  decide

/-- The same in 32-bit mode: a limit one byte short, from above and from below (an expand-down segment), and the byte
at offset 2^32, which is outside the limit of a segment that has one and inside a segment that has none (R50). -/
theorem witness_SegmentFaults_limit :
    SegmentCheckFails readsRax .mode32 (withDs ⟨some ⟨0#32, 0x2009#32⟩, false, true⟩) (.base 0#4 .none)
    ∧ ¬ SegmentCheckFails readsRax .mode32 (withDs ⟨some ⟨0x2003#32, 0x200A#32⟩, false, true⟩) (.base 0#4 .none)
    ∧ SegmentCheckFails readsRax .mode32 (withDs ⟨some ⟨0x2004#32, 0xFFFFFFFF#32⟩, false, true⟩) (.base 0#4 .none)
    ∧ SegmentCheckFails readsRax .mode32 (withRax (withDs fullRange) 0xFFFFFFF9#64) (.base 0#4 .none)
    ∧ ¬ SegmentCheckFails readsRax .mode32 (withRax (withDs fullRange) 0xFFFFFFF8#64) (.base 0#4 .none)
    ∧ ¬ SegmentCheckFails readsRax .mode32 (withRax env32 0xFFFFFFF9#64) (.base 0#4 .none)
    ∧ env32.segs = Segments.flat := by
  simp only [SegmentCheckFails]
  decide

/-- The same: a null selector, a segment that is not readable, and SS's limit, its other bits not being looked at. -/
theorem witness_SegmentFaults_rights :
    SegmentCheckFails readsRax .mode32 (withDs ⟨some ⟨0#32, 0xFFFFFFFF#32⟩, true, true⟩) (.base 0#4 .none)
    ∧ SegmentCheckFails readsRax .mode32 (withDs ⟨some ⟨0#32, 0xFFFFFFFF#32⟩, false, false⟩) (.base 0#4 .none)
    ∧ SegmentCheckFails readsRbp .mode32
        { env32 with x := env32.x.set 5 0x10#64, segs := { env32.segs with ss := ⟨some ⟨0#32, 0xF#32⟩, false, true⟩ } }
        (.base 5#4 (.disp8 0#8))
    ∧ ¬ SegmentCheckFails readsRbp .mode32
        { env32 with segs := { env32.segs with ss := ⟨some ⟨0#32, 0xF#32⟩, true, false⟩ } } (.base 5#4 (.disp8 0#8)) := by
  simp only [SegmentCheckFails]
  decide

/-- Those forms reach their operand. -/
theorem witness_SegmentFaults_reach :
    ReachesOperand readsRax .mode64 (withRax env0 0x00007FFFFFFFFFF9#64) (.base 0#4 .none)
    ∧ ReachesOperand readsRsp .mode64 { env0 with x := env0.x.set 4 0xFFFF7FFFFFFFFFFF#64 } (.sib 0#2 4#4 4#4 .none)
    ∧ ReachesOperand readsRax .mode32 (withDs ⟨some ⟨0#32, 0x2009#32⟩, false, true⟩) (.base 0#4 .none)
    ∧ ReachesOperand readsRax .mode32 (withDs ⟨some ⟨0x2004#32, 0xFFFFFFFF#32⟩, false, true⟩) (.base 0#4 .none)
    ∧ ReachesOperand readsRax .mode32 (withRax (withDs fullRange) 0xFFFFFFF9#64) (.base 0#4 .none)
    ∧ ReachesOperand readsRbp .mode32
        { env32 with x := env32.x.set 5 0x10#64, segs := { env32.segs with ss := ⟨some ⟨0#32, 0xF#32⟩, false, true⟩ } }
        (.base 5#4 (.disp8 0#8)) := by
  simp only [ReachesOperand, RaisesUd, readsRax, readsRsp, readsRbp, Instr.view, LegacyUd, Vex256Ud, VexBytesUd,
    OsAvxOff]
  decide

/-- Paging on, RAX so that the last of eight bytes lies in a page of a kind, at a privilege level. -/
def acrossPages (k : PageKind) (cpl : BitVec 2) : State :=
  { withRax env0 0x2FF9#64 with
    paging := true, pages := [⟨0x2000, 0x1000, .user⟩, ⟨0x3000, 0x1000, k⟩], cpl := cpl }

/-- `PageFaultsCarryTheirCode`: a page not present, with a reserved bit, for the supervisor; and no fault for the
supervisor itself or in a user page. -/
theorem witness_PageFaults :
    PageCheckFails readsRax .mode64 (acrossPages .notPresent 0#2) (.base 0#4 .none)
    ∧ PageCheckFails readsRax .mode64 (acrossPages .reservedBit 0#2) (.base 0#4 .none)
    ∧ PageCheckFails readsRax .mode64 (acrossPages .supervisor 3#2) (.base 0#4 .none)
    ∧ ¬ PageCheckFails readsRax .mode64 (acrossPages .supervisor 2#2) (.base 0#4 .none)
    ∧ ¬ PageCheckFails readsRax .mode64 (acrossPages .user 3#2) (.base 0#4 .none)
    ∧ ¬ SegmentCheckFails readsRax .mode64 (acrossPages .supervisor 3#2) (.base 0#4 .none)
    ∧ ¬ AlignmentCheckFails readsRax .mode64 (acrossPages .supervisor 3#2) (.base 0#4 .none)
    ∧ (acrossPages .supervisor 3#2).faultingBytes .mode64 0x2FF9#64 8 = [(0x3000#64, 5#32)]
    ∧ (acrossPages .reservedBit 0#2).faultingBytes .mode64 0x2FF9#64 8 = [(0x3000#64, 9#32)]
    ∧ (acrossPages .notPresent 3#2).faultingBytes .mode64 0x2FF9#64 8 = [(0x3000#64, 4#32)] := by
  simp only [SegmentCheckFails, CanonicalNumber, PageCheckFails, PageFaultsAt, AlignmentCheckFails]
  decide

/-- Those states reach their operand. -/
theorem witness_PageFaults_reach (k : PageKind) :
    ReachesOperand readsRax .mode64 (acrossPages k 0#2) (.base 0#4 .none)
    ∧ ReachesOperand readsRax .mode64 (acrossPages k 3#2) (.base 0#4 .none) := by
  simp only [ReachesOperand, RaisesUd, readsRax, Instr.view, LegacyUd]
  cases k <;> decide

/-- `MisalignedOperandsRaiseAlignmentCheck`: 8 and 16 bytes, with and without a page fault. -/
theorem witness_AlignmentCheck :
    AlignmentCheckFails readsRax .mode64 (acOn env0) (.base 0#4 .none)
    ∧ AlignmentCheckFails reads16 .mode64 (acOn env0) (.base 0#4 .none)
    ∧ ¬ SegmentCheckFails reads16 .mode64 (acOn env0) (.base 0#4 .none)
    ∧ ¬ SegmentCheckFails readsRax .mode64 (acOn env0) (.base 0#4 .none)
    ∧ ¬ PageCheckFails readsRax .mode64 (acOn env0) (.base 0#4 .none)
    ∧ PageCheckFails readsRax .mode64 { acOn env0 with paging := true } (.base 0#4 .none)
    ∧ AlignmentCheckFails readsRax .mode64 { acOn env0 with paging := true } (.base 0#4 .none)
    ∧ operandBytesOf readsRax = 8 ∧ operandBytesOf reads16 = 16 := by
  simp only [SegmentCheckFails, CanonicalNumber, PageCheckFails, PageFaultsAt, AlignmentCheckFails]
  decide

/-- Those states reach their operand, the one with paging on and no page among them. -/
theorem witness_AlignmentCheck_reach :
    ReachesOperand readsRax .mode64 (acOn env0) (.base 0#4 .none)
    ∧ ReachesOperand reads16 .mode64 (acOn env0) (.base 0#4 .none)
    ∧ ReachesOperand readsRax .mode64 { acOn env0 with paging := true } (.base 0#4 .none)
    ∧ ¬ SegmentCheckFails readsRax .mode64 { acOn env0 with paging := true } (.base 0#4 .none) := by
  simp only [ReachesOperand, RaisesUd, readsRax, reads16, Instr.view, LegacyUd, Vex256Ud, VexBytesUd, OsAvxOff,
    SegmentCheckFails, CanonicalNumber]
  decide

/-- `RegisterSourcesComplete`: a form of each encoding. -/
theorem witness_RegisterSourcesComplete :
    env0.mode? = some .mode64 ∧ env0.cr0.getLsbD 3 = false
    ∧ ¬ RaisesUd (.pmovsxbq plainLegacy 1#4 (.reg 2#4)) env0
    ∧ ¬ RaisesUd (.vpmovsxbq128 plainVex 15#4 1#4 (.reg 2#4)) env0
    ∧ ¬ RaisesUd (.vpmovsxbq256 plainVex 15#4 1#4 (.reg 2#4)) env0 := by
  simp only [RaisesUd, Instr.view, LegacyUd, Vex128Ud, Vex256Ud, VexBytesUd, OsAvxOff]
  decide

/-- `TheThreeEncodingsAgreeOnTheLowHalf`: one register read by the three forms of each operation. -/
theorem witness_TheThreeEncodingsAgree (o : Op) :
    isNext (exec (.legacy o plainLegacy 1#4 (.reg 2#4)) env0) = true
    ∧ isNext (exec (.vex128 o plainVex 15#4 1#4 (.reg 2#4)) env0) = true
    ∧ isNext (exec (.vex256 o plainVex 15#4 1#4 (.reg 2#4)) env0) = true := by
  cases o <;> decide

/-- `UnreadSourceBitsDoNotMatter`: a value that differs from `ymm2`'s in every bit above the 16 that are read. -/
theorem witness_UnreadSourceBits :
    (Instr.pmovsxbq plainLegacy 1#4 (.reg 2#4)).src = .reg 2#4
    ∧ (∀ b, b < 8 * operandBytesOf (.pmovsxbq plainLegacy 1#4 (.reg 2#4)) →
        (env0.ymmGet 2#4 ^^^ (BitVec.allOnes 240 ++ 0#16 : BitVec (240 + 16))).getLsbD b
          = (env0.ymmGet 2#4).getLsbD b)
    ∧ isNext (exec (.pmovsxbq plainLegacy 1#4 (.reg 2#4)) env0) = true
    ∧ isNext (exec (.pmovsxbq plainLegacy 1#4 (.reg 2#4))
        (env0.ymmSet 2#4 (env0.ymmGet 2#4 ^^^ (BitVec.allOnes 240 ++ 0#16 : BitVec (240 + 16))))) = true := by
  decide

/-- The program counter so that an instruction of five bytes ends at the top of the address space, and one byte
above that. -/
def atTop (s : State) (pc : Addr) : State :=
  { s with pc := pc }.loadAtPc [0x66#8, 0x0F#8, 0x38#8, 0x20#8, 0xCA#8]

/-- `StepRunsTheDecodedInstruction`: the last address that fits and the first that wraps, in both modes. -/
theorem witness_StepRuns :
    decode .mode64 ((atTop env0 0xFFFFFFFFFFFFFFFB#64).fetch .mode64)
        = .insn (.pmovsxbw plainLegacy 1#4 (.reg 2#4)) []
    ∧ isNext (step (atTop env0 0xFFFFFFFFFFFFFFFB#64)) = true
    ∧ decode .mode64 ((atTop env0 0xFFFFFFFFFFFFFFFC#64).fetch .mode64)
        = .insn (.pmovsxbw plainLegacy 1#4 (.reg 2#4)) []
    ∧ refusalOf (step (atTop env0 0xFFFFFFFFFFFFFFFC#64)) = some .fetchWraps
    ∧ isNext (step (atTop env32 0xFFFFFFFB#64)) = true
    ∧ refusalOf (step (atTop env32 0xFFFFFFFC#64)) = some .fetchWraps
    ∧ decode .mode64 ((env0.loadAtPc [0xF3#8, 0x66#8, 0x0F#8, 0x38#8, 0x20#8, 0xCA#8]).fetch .mode64)
        = .refused .repBeforeLegacy
    ∧ decode .mode64 ((env0.loadAtPc [0x66#8, 0x0F#8, 0x38#8, 0x26#8, 0xCA#8]).fetch .mode64) = .notInScope := by
  decide

/-- `StepKeepsTheInvariant` and `RunsChangeOnlyVectorRegistersAndPc`: a state that meets the invariant in 32-bit mode
and steps. -/
theorem witness_StepKeepsTheInvariant :
    StateInv (atTop env32 0xFFFFFFFB#64) ∧ isNext (step (atTop env32 0xFFFFFFFB#64)) = true
    ∧ isNext (Host.Core.run Sys2Proof.core 1 (atTop env32 0xFFFFFFFB#64)) = true := by
  unfold StateInv
  decide

/-- `ResetEnablesRaiseInvalidOpcode`: a supported mode with CR4 as reset leaves it, and reset's own mode. -/
theorem witness_ResetEnables :
    { env0 with cr4 := 0#64 }.cr4 = State.reset.cr4 ∧ { env0 with cr4 := 0#64 }.mode? = some .mode64
    ∧ State.reset.mode? = none := by decide

/-- `MemoryReadsWhatWasWritten`: two canonical memories, written in two orders. -/
theorem witness_MemoryReads :
    Memory.wf (Memory.write (Memory.write [] 7 1#8) 3 2#8) = true
    ∧ Memory.wf (Memory.write (Memory.write [] 3 2#8) 7 1#8) = true
    ∧ Memory.write (Memory.write [] 7 1#8) 3 2#8 = Memory.write (Memory.write [] 3 2#8) 7 1#8
    ∧ Memory.wf [(7, 1#8), (3, 2#8)] = false := by decide

/-- `FaultsHaveTheirVectorAndErrorCode`: forms that raise each exception but #PF, of which `test_page_fault` shows
one. -/
theorem witness_Faults :
    faultOf (exec (.vpmovsxbw128 plainVex 14#4 1#4 (.reg 2#4)) env0) = some .ud
    ∧ faultOf (exec (.vpmovsxbw128 plainVex 15#4 1#4 (.reg 2#4)) (tsOn env0)) = some .nm
    ∧ faultOf (exec readsRsp { env0 with x := env0.x.set 4 0xFFFF7FFFFFFFFFFF#64 }) = some .ss
    ∧ faultOf (exec readsRax (withRax env0 0x00007FFFFFFFFFF9#64)) = some .gp
    ∧ faultOf (exec readsRax (acOn env0)) = some .ac := by decide

/-- R74, R76: in 32-bit mode the segment's base is added, modulo 2^32; in 64-bit mode it is zero. -/
theorem test_segment_bases :
    env32.linearAddr .mode32 .ds 0x2003#64 = 0x2003#64
    ∧ { env32 with segs := { env32.segs with dsBase := 0xFFFFF000#32 } }.linearAddr .mode32 .ds 0x2003#64 = 0x1003#64
    ∧ { env0 with segs := { env0.segs with ssBase := 0x1000#32 } }.linearAddr .mode64 .ss 0x2003#64 = 0x2003#64
    ∧ isNext (exec readsRax { withRax env32 0x1003#64 with segs := { env32.segs with dsBase := 0x1000#32 } })
        = true := by decide

/-! ## A run -/

/-- The program of the run tests. -/
def oneForm (base : Addr) : Program := ⟨base, [0x66#8, 0x0F#8, 0x38#8, 0x20#8, 0xCA#8]⟩

/-- The `pc` in which a run ended. -/
def endedAt : RunOutcome → Option Addr
  | .ended t => some t.pc
  | _ => none

/-- R163: a program of one form, from its first byte to its end, also where it ends at the top of the address space of
either mode. -/
theorem test_run_ends :
    endedAt ((oneForm 0x1000#64).run 2 (atTop env0 0x1000#64)) = some 0x1005#64
    ∧ endedAt ((oneForm 0xFFFFFFFFFFFFFFFB#64).run 1 (atTop env0 0xFFFFFFFFFFFFFFFB#64)) = some 0#64
    ∧ endedAt ((oneForm 0xFFFFFFFB#64).run 1 (atTop env32 0xFFFFFFFB#64)) = some 0#64
    ∧ endedAt ((oneForm 0x1000#64).run 2 State.reset) = none := by decide

/-- `ARunOfOneFormEndsAtItsEnd`: a form that ends at the top, in each mode. -/
theorem witness_ARunOfOneForm :
    encode (.pmovsxbw plainLegacy 1#4 (.reg 2#4)) = (oneForm 0#64).bytes
    ∧ (Instr.pmovsxbw plainLegacy 1#4 (.reg 2#4)).wellFormed .mode64 = true
    ∧ (Instr.pmovsxbw plainLegacy 1#4 (.reg 2#4)).wellFormed .mode32 = true
    ∧ ¬ RaisesUd (.pmovsxbw plainLegacy 1#4 (.reg 2#4)) (atTop env0 0xFFFFFFFFFFFFFFFB#64)
    ∧ ¬ RaisesUd (.pmovsxbw plainLegacy 1#4 (.reg 2#4)) (atTop env32 0xFFFFFFFB#64)
    ∧ (atTop env32 0xFFFFFFFB#64).cr0.getLsbD 3 = false
    ∧ (oneForm 0xFFFFFFFFFFFFFFFB#64).loaded .mode64 (atTop env0 0xFFFFFFFFFFFFFFFB#64) = true
    ∧ (oneForm 0xFFFFFFFB#64).loaded .mode32 (atTop env32 0xFFFFFFFB#64) = true := by
  simp only [RaisesUd, Instr.view, LegacyUd]
  decide

end Sys2Proof.Tests
end

section
/-!
PROOFS. The state's family: what a step keeps, what it leaves unchanged, what it does not read, reset.
-/

namespace Sys2Proof.Safety

open Sys2Proof.Machine

theorem SameButVectorsAndPc.refl (s : State) : SameButVectorsAndPc s s := by
  simp [SameButVectorsAndPc]

theorem SameButVectorsAndPc.trans {s t u : State} (h : SameButVectorsAndPc s t) (h' : SameButVectorsAndPc t u) :
    SameButVectorsAndPc s u := by
  simp_all [SameButVectorsAndPc]

end Sys2Proof.Safety

namespace Sys2Proof.Machine

open Sys2Proof.Safety

/-! ## The mode -/

/-- The processor is in neither of the two modes of R29 exactly when one of the ways out of them holds. -/
theorem mode_eq_none_iff (s : State) :
    s.mode? = none ↔ s.opMode ≠ .protectedMode ∨ ((s.lma = false ∨ s.csL = false) ∧ s.csD = false) := by
  unfold State.mode?
  cases s.opMode with
  | protectedMode => cases s.lma <;> cases s.csL <;> cases s.csD <;> simp
  | realAddress => simp
  | virtual8086 => simp
  | systemManagement => simp

theorem exec_of_mode_none {s : State} (hm : s.mode? = none) (i : Instr) :
    exec i s = .refused .unsupportedMode := by
  simp only [exec_eq, executeForm, hm]

theorem step_of_mode_none {s : State} (hm : s.mode? = none) : step s = .refused .unsupportedMode := by
  simp only [step, hm]

/-! ## The instruction pointer -/

/-- `pc` after an instruction is the sum modulo the address width (R25). -/
theorem nextPc_toNat (m : Mode) (pc : Addr) (len : Nat) :
    (nextPc m pc len).toNat = (pc.toNat + len) % 2 ^ linearBits m := by
  cases m with
  | mode64 => simp [nextPc, wrapAddr, linearBits]
  | mode32 =>
    simp only [nextPc, wrapAddr, linearBits, BitVec.toNat_setWidth, BitVec.toNat_add, BitVec.toNat_ofNat]
    omega

/-! ## Frames -/

/-- A vector register's write and the advance of `pc`, the only updates a form makes, keep the rest. -/
theorem sameButVectorsAndPc_ymmSet_advance (s : State) (r : RegNum) (v : Ymm) (m : Mode) (n : Nat) :
    SameButVectorsAndPc s ((s.ymmSet r v).advance m n) := by
  simp [SameButVectorsAndPc]

theorem sameButDst_ymmSet_advance (s : State) (r : RegNum) (v : Ymm) (m : Mode) (n : Nat) :
    SameButDst r s ((s.ymmSet r v).advance m n) :=
  ⟨fun _ hq => State.ymmGet_ymmSet_other s r _ v hq, sameButVectorsAndPc_ymmSet_advance s r v m n⟩

theorem exec_sameButDst {i : Instr} {s t : State} (h : exec i s = .next t) : SameButDst i.dst s t := by
  obtain ⟨m, v, -, -, -, -, rfl⟩ := exec_next h
  exact sameButDst_ymmSet_advance ..

theorem step_sameButVectorsAndPc {s t : State} (h : step s = .next t) : SameButVectorsAndPc s t := by
  obtain ⟨_, _, _, -, -, -, hexec⟩ := step_next h
  exact (exec_sameButDst hexec).2

/-! ## Runs -/

/-- A run of `k + 1` steps is a step and a run of `k`. -/
theorem run_succ_next {k : Nat} {s t : State} (h : Host.Core.run Sys2Proof.core (k + 1) s = .next t) :
    ∃ u : State, step s = .next u ∧ Host.Core.run Sys2Proof.core k u = .next t := by
  simp only [Host.Core.run] at h
  cases hs : Sys2Proof.core.step s with
  | next u => exact ⟨u, hs, by rwa [hs] at h⟩
  | fault f => rw [hs] at h; cases h
  | refused r => rw [hs] at h; cases h

/-- A reflexive and transitive relation that holds over every step holds over every run. -/
theorem run_rel {R : State → State → Prop} (hrefl : ∀ s, R s s) (htrans : ∀ {s t u}, R s t → R t u → R s u)
    (hstep : ∀ {s t}, step s = .next t → R s t) {k : Nat} {s t : State}
    (h : Host.Core.run Sys2Proof.core k s = .next t) : R s t := by
  induction k generalizing s with
  | zero => cases h; exact hrefl _
  | succ k ih =>
    obtain ⟨u, hu, hrun⟩ := run_succ_next h
    exact htrans (hstep hu) (ih hrun)

/-! ## Parts of the state a form does not read -/

/-- A change of the state that nothing an execution reads shows is carried over to the next state. -/
theorem exec_eq_mapNext {f : State → State} {i : Instr} {s : State} (hmode : (f s).mode? = s.mode?)
    (hgate : (f s).gateUd i.enc = s.gateUd i.enc) (hts : (f s).ts = s.ts)
    (hread : ∀ m ov z n len, (f s).readSource m ov z n len i.src = s.readSource m ov z n len i.src)
    (hdst : (f s).ymmGet i.dst = s.ymmGet i.dst)
    (hwrite : ∀ v m n, ((f s).ymmSet i.dst v).advance m n = f ((s.ymmSet i.dst v).advance m n)) :
    exec i (f s) = mapNext f (exec i s) := by
  cases hm : s.mode? with
  | none => rw [exec_of_mode_none (hmode.trans hm), exec_of_mode_none hm]; rfl
  | some m =>
    rw [exec_eq_of_mode (hmode.trans hm), exec_eq_of_mode hm, hgate, hts, hread]
    simp only [hdst, hwrite]
    split
    · rfl
    · split
      · rfl
      · cases s.readSource m (segOverride i) (has67 i) (operandSize i.enc i.op) i.len i.src <;> rfl

/-- Of EFLAGS a source reads bit 18 only, through the alignment check. -/
theorem readSource_eflags {s : State} {f : BitVec 64} (h : f.getLsbD 18 = s.eflags.getLsbD 18) (m : Mode)
    (ov : Option SegReg) (z : Bool) (n len : Nat) (src : Source) :
    State.readSource { s with eflags := f } m ov z n len src = s.readSource m ov z n len src := by
  cases src with
  | reg j => rfl
  | mem o =>
    have hmis : ∀ lin n, State.misaligned { s with eflags := f } lin n = s.misaligned lin n := fun lin n => by
      simp only [State.misaligned, State.acEnabled, h]
    simp only [readSource_mem, readMem_eq, hmis]
    rfl

/-! ## Source bits a form does not read -/

theorem extractLsb'_congr {w lo n : Nat} {v v' : BitVec w} (h : ∀ b, b < lo + n → v'.getLsbD b = v.getLsbD b) :
    v'.extractLsb' lo n = v.extractLsb' lo n := by
  refine BitVec.eq_of_getLsbD_eq fun b hb => ?_
  rw [BitVec.getLsbD_extractLsb', BitVec.getLsbD_extractLsb', h _ (by omega)]

/-- The low helper call reads as many bytes as a 128-bit form's operand has (R22, R43). -/
theorem lowLanes_congr {o : Op} {v v' : Xmm}
    (h : ∀ b, b < 8 * operandSize .vex128 o → v'.getLsbD b = v.getLsbD b) : lowLanes o v' = lowLanes o v := by
  cases o <;> simp only [lowLanes] <;> congr 1 <;> exact extractLsb'_congr h

/-- The high helper call reads within a 256-bit form's operand (R22, R43). -/
theorem highLanes_congr {o : Op} {v v' : Xmm}
    (h : ∀ b, b < 8 * operandSize .vex256 o → v'.getLsbD b = v.getLsbD b) : highLanes o v' = highLanes o v := by
  cases o <;> simp only [highLanes] <;> congr 1 <;> exact extractLsb'_congr h

theorem operandSize_vex128_le (e : Enc) (o : Op) : operandSize .vex128 o ≤ operandSize e o := by
  cases e <;> cases o <;> decide

theorem operandSize_le (e : Enc) (o : Op) : operandSize e o ≤ 16 := by
  cases e <;> cases o <;> decide

/-- The bits a form writes depend on the source's value in the bits R22 lists only, and not on the destination's
old value. -/
theorem resultOf_getLsbD_congr {i : Instr} {old old' : Ymm} {v v' : Xmm}
    (h : ∀ b, b < 8 * operandSize i.enc i.op → v'.getLsbD b = v.getLsbD b) {b : Nat}
    (hb : b < if i.enc = .legacy then 128 else 256) :
    (resultOf i old' v').getLsbD b = (resultOf i old v).getLsbD b := by
  have hlow : lowLanes i.op v' = lowLanes i.op v :=
    lowLanes_congr fun b hb => h b (by have := operandSize_vex128_le i.enc i.op; omega)
  unfold resultOf
  split
  · next he =>
    have hb' : b < 128 := by simpa [he] using hb
    have happend (hi lo : Xmm) : (hi ++ lo).getLsbD b = lo.getLsbD b :=
      (BitVec.getLsbD_append ..).trans (if_pos hb')
    exact hlow ▸ (happend _ _).trans (happend _ _).symm
  · rw [hlow]
  · next he => rw [hlow, highLanes_congr (he ▸ h)]

end Sys2Proof.Machine

namespace Sys2Proof.Proofs

open Sys2Proof.Machine Sys2Proof.Safety

/-- Settles O51: a step writes no memory, and `pc` is reduced modulo the mode's address width. -/
theorem stepKeepsTheInvariant : Obligations.StepKeepsTheInvariant := by
  rintro s t ⟨hwf, -⟩ hstep
  obtain ⟨m, i, -, hm, -, -, hexec⟩ := step_next hstep
  obtain ⟨m', v, hm', -, -, -, rfl⟩ := exec_next hexec
  refine ⟨hwf, fun h32 => ?_⟩
  have hmode : m' = .mode32 := Option.some.inj (hm'.symm.trans h32)
  rw [State.advance_pc, nextPc_toNat, hmode]
  exact Nat.mod_lt _ (by decide)

/-- Settles O55: one step's frame, carried over the run. -/
theorem runsChangeOnlyVectorRegistersAndPc : Obligations.RunsChangeOnlyVectorRegistersAndPc :=
  fun _ _ _ h => run_rel .refl .trans step_sameButVectorsAndPc h

/-- Settles O29: the frame of the register write and of the advance, and `nextPc` as a number. -/
theorem completedFormsChangeOnlyDestinationAndPc : Obligations.CompletedFormsChangeOnlyDestinationAndPc := by
  intro i s t h
  refine ⟨exec_sameButDst h, ?_⟩
  obtain ⟨m, v, hm, -, -, -, rfl⟩ := exec_next h
  exact ⟨m, hm, nextPc_toNat m s.pc i.len⟩

/-- Settles O31: only the alignment check reads EFLAGS, and of it bit 18. -/
theorem flagsNeitherReadNorWritten : Obligations.FlagsNeitherReadNorWritten := by
  refine fun i s => ⟨fun t h => ?_, fun f hf => ?_⟩
  · obtain ⟨m, v, -, -, -, -, rfl⟩ := exec_next h
    rfl
  · exact exec_eq_mapNext (f := fun t => { t with eflags := f }) rfl (by cases i.enc <;> rfl) rfl
      (fun m ov z n len => readSource_eflags hf m ov z n len i.src) rfl fun _ _ _ => rfl

/-- Settles O32: nothing an execution reads depends on MXCSR. -/
theorem mxcsrNeitherReadNorWritten : Obligations.MxcsrNeitherReadNorWritten := by
  refine fun i s => ⟨fun t h => ?_, fun c => ?_⟩
  · obtain ⟨m, v, -, -, -, -, rfl⟩ := exec_next h
    rfl
  · exact exec_eq_mapNext (f := fun t => { t with mxcsr := c }) rfl (by cases i.enc <;> rfl) rfl
      (fun _ _ _ _ _ => by cases i.src <;> rfl) rfl fun _ _ _ => rfl

/-- Settles O48: the written bits are a function of the source bits R22 lists. -/
theorem unreadSourceBitsDoNotMatter : Obligations.UnreadSourceBitsDoNotMatter := by
  intro i s t t' j v hsrc hv ht ht' b hb
  obtain ⟨m, x, -, -, -, hx, rfl⟩ := exec_next ht
  obtain ⟨m', x', -, -, -, hx', rfl⟩ := exec_next ht'
  rw [hsrc, readSource_reg] at hx hx'
  cases hx
  cases hx'
  simp only [State.ymmGet_advance, State.ymmGet_ymmSet_same]
  refine resultOf_getLsbD_congr (fun k hk => ?_) hb
  have hk128 : k < 128 := by have := operandSize_le i.enc i.op; omega
  simp [State.xmmGet, hk128, hv k hk]

/-- Settles O28: no mode of R29 is in force, and mode comes first. -/
theorem otherModesAreRefused : Obligations.OtherModesAreRefused := by
  intro s h
  have hm : s.mode? = none := (mode_eq_none_iff s).2 h
  exact ⟨exec_of_mode_none hm, step_of_mode_none hm⟩

/-- Settles O52: reset memory lists nothing, and the reset mode is not 32-bit mode. -/
theorem resetMeetsTheInvariant : Obligations.ResetMeetsTheInvariant :=
  ⟨rfl, fun h => absurd h (by decide)⟩

/-- Settles O53: the registers are replicated zeros, and every other value is read off the reset state. -/
theorem resetValuesAreThoseListed : Obligations.ResetValuesAreThoseListed := by
  refine ⟨fun r => ?_, fun r _ => ?_, ?_⟩
  · simp [State.ymmGet, State.reset, Vector.get_eq_getElem]
  · simp [State.gpr, State.reset, Vector.get_eq_getElem]
  · decide

end Sys2Proof.Proofs
end

section
/-!
PROOFS. The decoder: what it must have read where it answers an instruction, and that the instruction is
well-formed (30_encoding.md R60 to R77).
-/

namespace Sys2Proof

/-! ## The views of the forms -/

@[simp] theorem view_legacy (o : Op) (p : LegacyPrefixes) (dst : RegNum) (src : Source) :
    (Instr.legacy o p dst src).view = .legacy o p dst src := by
  cases o <;> rfl

@[simp] theorem view_vexForm (wide : Bool) (o : Op) (p : VexPrefixes) (vvvv : BitVec 4) (dst : RegNum)
    (src : Source) : (vexForm wide o p vvvv dst src).view = .vex wide o p vvvv dst src := by
  cases wide <;> cases o <;> rfl

/-! ## What was read where the decoder answers an instruction -/

/-- After the prefixes stand the opcode map bytes of one of the two formats, which answers the instruction. -/
theorem decode_insn {m : Mode} {bs rest : List Byte} {i : Instr} (h : decode m bs = .insn i rest) :
    ∃ a, (∃ op modrm tail, scanPrefixes m {} bs = (a, 0x0F#8 :: 0x38#8 :: op :: modrm :: tail)
        ∧ decodeLegacy m a op modrm tail = .insn i rest)
      ∨ ∃ b1 b2 op modrm tail, scanPrefixes m {} bs = (a, 0xC4#8 :: b1 :: b2 :: op :: modrm :: tail)
        ∧ decodeVex m a b1 b2 op modrm tail = .insn i rest := by
  unfold decode at h
  split at h
  · next a b0 b1 b2 b3 tail hscan =>
    split at h
    · next hmap =>
      obtain ⟨rfl, rfl⟩ := hmap
      exact ⟨a, .inl ⟨b2, b3, tail, hscan, h⟩⟩
    · split at h
      · next hvex =>
        subst hvex
        split at h
        · next b4 tail => exact ⟨a, .inr ⟨b1, b2, b3, b4, tail, hscan, h⟩⟩
        · cases h
      · cases h
  · cases h

/-- A legacy form's bytes passed every check of R61 and R62. -/
theorem decodeLegacy_insn {m : Mode} {a : PrefixScan} {op modrm : Byte} {bs rest : List Byte} {i : Instr}
    (h : decodeLegacy m a op modrm bs = .insn i rest) :
    ∃ o src, opOfByte op = some o
      ∧ decodeSource (usesTable16 m a.addrSize) (a.rexBits.getLsbD 1) (a.rexBits.getLsbD 0) modrm bs
        = some (src, rest)
      ∧ a.opSize = true ∧ a.dup = false ∧ a.group1 ≠ some .repne ∧ a.group1 ≠ some .rep
      ∧ i = .legacy o ⟨a.group1.isSome, a.seg, a.addrSize, a.rexUse⟩
        (regNum (a.rexBits.getLsbD 2) (field53 modrm)) src := by
  unfold decodeLegacy at h
  split at h
  · next o src rest' ho hsrc =>
    split_ifs at h with hsize hdup hrep
    obtain ⟨hrepne, hrep⟩ := not_or.1 hrep
    cases h
    exact ⟨o, src, ho, hsrc, by simpa using hsize, by simpa using hdup, hrepne, hrep, rfl⟩
  · cases h

/-- A VEX form's bytes passed every check of R64, R66, R62 and R77. -/
theorem decodeVex_insn {m : Mode} {a : PrefixScan} {b1 b2 op modrm : Byte} {bs rest : List Byte} {i : Instr}
    (h : decodeVex m a b1 b2 op modrm bs = .insn i rest) :
    ∃ o src, opOfByte op = some o
      ∧ decodeSource (usesTable16 m a.addrSize) (!b1.getLsbD 6) (m == .mode64 && !b1.getLsbD 5) modrm bs
        = some (src, rest)
      ∧ b1.extractLsb' 0 5 = 2#5 ∧ b2.extractLsb' 0 2 = 1#2 ∧ (m = .mode32 → field76 b1 = 3#2)
      ∧ a.dup = false ∧ (m = .mode32 → b2.extractLsb' 3 4 ≠ 7#4)
      ∧ i = vexForm (b2.getLsbD 2) o ⟨a.group1, a.seg, a.opSize, a.addrSize, a.rex.isSome⟩ (b2.extractLsb' 3 4)
        (regNum (!b1.getLsbD 7) (field53 modrm)) src := by
  simp only [decodeVex] at h
  split at h
  · next o src rest' ho hsrc =>
    split_ifs at h with hmap h11 hdup hvvvv
    obtain ⟨hmmmmm, hpp⟩ := not_or.1 hmap
    cases h
    exact ⟨o, src, ho, hsrc, not_not.1 hmmmmm, not_not.1 hpp, fun hm => not_not.1 fun hne => h11 ⟨hm, hne⟩,
      by simpa using hdup, fun hm hv => hvvvv ⟨hm, hv⟩, rfl⟩
  · cases h

/-! ## Prefixes -/

/-- In 32-bit mode no byte is a REX byte (R61). -/
theorem prefixOfByte_mode32_ne_rex (b : Byte) (wrxb : BitVec 4) :
    prefixOfByte .mode32 b ≠ some (.rex wrxb) := by
  unfold prefixOfByte
  split_ifs <;> simp_all

/-- A byte read that is no REX byte keeps the REX byte read before. -/
theorem scanOne_rex {a : PrefixScan} {p : PrefixByte} (h : ∀ wrxb, p ≠ .rex wrxb) : (scanOne a p).rex = a.rex := by
  cases p with
  | rex wrxb => exact absurd rfl (h wrxb)
  | _ => rfl

/-- In 32-bit mode the prefixes hold no REX byte (R61). -/
theorem scanPrefixes_mode32_rex (a : PrefixScan) (bs : List Byte) :
    (scanPrefixes .mode32 a bs).1.rex = a.rex := by
  induction bs generalizing a with
  | nil => rfl
  | cons b bs ih =>
    rw [scanPrefixes]
    split
    · next p hp =>
      rw [ih]
      exact scanOne_rex fun wrxb e => prefixOfByte_mode32_ne_rex b wrxb (e ▸ hp)
    · rfl

/-- Without an effective REX byte there are no extension bits (R61, R63). -/
theorem rexBits_eq_zero {a : PrefixScan} (h : a.rexUse ≠ .effective) : a.rexBits = 0#4 := by
  cases hrex : a.rex with
  | none => simp [PrefixScan.rexBits, hrex]
  | some wrxb =>
    cases hlast : a.rexLast with
    | false => simp [PrefixScan.rexBits, hlast]
    | true => exact absurd (by simp [PrefixScan.rexUse, hrex, hlast]) h

/-! ## Register numbers -/

@[simp] theorem bits_regNum (e : Bool) (b : BitVec 3) : RegNum.bits (regNum e b) = b := by
  revert e b; decide

@[simp] theorem low_regNum (e : Bool) (b : BitVec 3) : RegNum.low (regNum e b) = !e := by
  revert e b; decide

/-! ## The source operand -/

/-- Only `mod` = 00b gives no displacement (R71). -/
theorem takeDisp_isNone_eq_false_or {mod : BitVec 2} {bs rest : List Byte} {d : Disp}
    (h : takeDisp mod bs = some (d, rest)) : d.isNone = false ∨ mod = 0#2 := by
  unfold takeDisp at h
  split_ifs at h with h0 h1
  · exact .inr h0
  · split at h <;> cases h
    exact .inl rfl
  · obtain ⟨_, -, ⟨⟩⟩ := Option.map_eq_some_iff.1 h
    exact .inl rfl

/-- Only `mod` = 00b gives no displacement (R75). -/
theorem takeDispFor16_isNone_eq_false_or {mod : BitVec 2} {bs rest : List Byte} {d : Disp16}
    (h : takeDispFor16 mod bs = some (d, rest)) : d.isNone = false ∨ mod = 0#2 := by
  unfold takeDispFor16 at h
  split_ifs at h with h0 h1
  · exact .inr h0
  · split at h <;> cases h
    exact .inl rfl
  · obtain ⟨_, -, ⟨⟩⟩ := Option.map_eq_some_iff.1 h
    exact .inl rfl

theorem base16OfBits_eq_bp (rm : BitVec 3) : base16OfBits rm = .bp ↔ rm = 6#3 := by
  revert rm; decide

/-- The 16-bit table gives its own forms: BP alone has a displacement (R75). -/
theorem decodeMem16_wellFormed {mod : BitVec 2} {rm : BitVec 3} {bs rest : List Byte} {o : MemOperand}
    (h : decodeMem16 mod rm bs = some (o, rest)) (ext : Bool) : o.wellFormed ext true = true := by
  unfold decodeMem16 at h
  split_ifs at h with habs
  · obtain ⟨⟨d, _⟩, -, ⟨⟩⟩ := Option.map_eq_some_iff.1 h
    rfl
  · obtain ⟨⟨d, _⟩, hd, ⟨⟩⟩ := Option.map_eq_some_iff.1 h
    have hbp : d.isNone = false ∨ base16OfBits rm ≠ .bp :=
      (takeDispFor16_isNone_eq_false_or hd).imp_right fun hmod hrm => habs ⟨hmod, (base16OfBits_eq_bp rm).1 hrm⟩
    simpa [MemOperand.wellFormed] using hbp

/-- `SIB` gives its own forms: base 101b without displacement is no base register (R72). -/
theorem decodeSib_wellFormed {x b ext : Bool} {mod : BitVec 2} {sib : Byte} {bs rest : List Byte} {o : MemOperand}
    (h : decodeSib x b mod sib bs = some (o, rest)) (hext : ext = false → x = false ∧ b = false) :
    o.wellFormed ext false = true := by
  unfold decodeSib at h
  split_ifs at h with hbase
  · obtain ⟨⟨d, _⟩, -, ⟨⟩⟩ := Option.map_eq_some_iff.1 h
    cases ext <;> simp_all [MemOperand.wellFormed]
  · obtain ⟨⟨d, _⟩, hd, ⟨⟩⟩ := Option.map_eq_some_iff.1 h
    have hfive : d.isNone = false ∨ field20 sib ≠ 5#3 :=
      (takeDisp_isNone_eq_false_or hd).imp_right fun hmod hsib => hbase ⟨hmod, hsib⟩
    cases ext <;> simp_all [MemOperand.wellFormed]

/-- The 32-bit and 64-bit table gives its own forms (R71). -/
theorem decodeMem_wellFormed {x b ext : Bool} {mod : BitVec 2} {rm : BitVec 3} {bs rest : List Byte}
    {o : MemOperand} (h : decodeMem x b mod rm bs = some (o, rest)) (hext : ext = false → x = false ∧ b = false) :
    o.wellFormed ext false = true := by
  unfold decodeMem at h
  split at h
  · split at h
    · exact decodeSib_wellFormed h hext
    · cases h
  · next hrm =>
    split_ifs at h with hdisp
    · obtain ⟨⟨d, _⟩, -, ⟨⟩⟩ := Option.map_eq_some_iff.1 h
      rfl
    · obtain ⟨⟨d, _⟩, hd, ⟨⟩⟩ := Option.map_eq_some_iff.1 h
      have hfive : d.isNone = false ∨ rm ≠ 5#3 :=
        (takeDisp_isNone_eq_false_or hd).imp_right fun hmod hrm5 => hdisp ⟨hmod, hrm5⟩
      cases ext <;> simp_all [MemOperand.wellFormed]

/-- A decoded source is well-formed where there are extension bits if `ext` says so (R67). -/
theorem decodeSource_wellFormed {t16 x b ext : Bool} {modrm : Byte} {bs rest : List Byte} {src : Source}
    (h : decodeSource t16 x b modrm bs = some (src, rest)) (hext : ext = false → x = false ∧ b = false) :
    src.wellFormed ext t16 = true := by
  unfold decodeSource at h
  split at h
  · cases h
    cases ext <;> simp_all [Source.wellFormed]
  · split at h
    · next ht =>
      obtain ⟨_, ho, ⟨⟩⟩ := Option.map_eq_some_iff.1 h
      exact ht ▸ decodeMem16_wellFormed ho ext
    · next ht =>
      obtain ⟨_, ho, ⟨⟩⟩ := Option.map_eq_some_iff.1 h
      exact Bool.eq_false_iff.2 ht ▸ decodeMem_wellFormed ho hext

/-! ## The two formats -/

theorem decodeLegacy_wellFormed {m : Mode} {a : PrefixScan} {op modrm : Byte} {bs rest : List Byte} {i : Instr}
    (h : decodeLegacy m a op modrm bs = .insn i rest) (hrex : m = .mode32 → a.rex = none) :
    i.wellFormed m = true := by
  obtain ⟨o, src, -, hsrc, -, -, -, -, rfl⟩ := decodeLegacy_insn h
  have hbits : (a.rexUse == .effective) = false → a.rexBits = 0#4 := fun he => rexBits_eq_zero (by simpa using he)
  have hsrcwf := decodeSource_wellFormed hsrc (ext := a.rexUse == .effective) fun he => by simp [hbits he]
  have hmode : (m == .mode64 || a.rexUse == .absent) = true := by
    cases m with
    | mode64 => rfl
    | mode32 => simp [PrefixScan.rexUse, hrex rfl]
  have hdst : (a.rexUse == .effective || !a.rexBits.getLsbD 2) = true := by
    cases he : a.rexUse == .effective with
    | true => rfl
    | false => simp [hbits he]
  simp only [Instr.wellFormed, view_legacy, View.wellFormed, LegacyPrefixes.ext, low_regNum, hmode, hdst, hsrcwf,
    Bool.and_self]

theorem decodeVex_wellFormed {m : Mode} {a : PrefixScan} {b1 b2 op modrm : Byte} {bs rest : List Byte} {i : Instr}
    (h : decodeVex m a b1 b2 op modrm bs = .insn i rest) (hrex : m = .mode32 → a.rex = none) :
    i.wellFormed m = true := by
  obtain ⟨o, src, -, hsrc, -, -, h11, -, hvvvv, rfl⟩ := decodeVex_insn h
  have hbit7 : m = .mode32 → b1.getLsbD 7 = true := fun hm => by
    simpa [field76] using congrArg (·.getLsbD 1) (h11 hm)
  have hbit6 : m = .mode32 → b1.getLsbD 6 = true := fun hm => by
    simpa [field76] using congrArg (·.getLsbD 0) (h11 hm)
  have hsrcwf := decodeSource_wellFormed hsrc (ext := m == .mode64) fun hm => by cases m <;> simp_all
  simp only [Instr.wellFormed, view_vexForm, View.wellFormed, low_regNum, hsrcwf, Bool.and_true]
  cases m with
  | mode64 => rfl
  | mode32 => simp [hrex rfl, hvvvv rfl, hbit7 rfl]

end Sys2Proof

namespace Sys2Proof.Proofs

/-- Settles O20: each format's forms are well-formed, and in 32-bit mode the scan reads no REX byte. -/
theorem decodedInstructionsAreWellFormed : Obligations.DecodedInstructionsAreWellFormed := by
  intro m bs i rest h
  obtain ⟨a, hformat⟩ := decode_insn h
  have hrex : ∀ l, scanPrefixes m {} bs = (a, l) → m = .mode32 → a.rex = none := by
    rintro l hscan rfl
    simpa [hscan] using scanPrefixes_mode32_rex {} bs
  obtain ⟨_, _, _, hscan, h⟩ | ⟨_, _, _, _, _, hscan, h⟩ := hformat
  · exact decodeLegacy_wellFormed h (hrex _ hscan)
  · exact decodeVex_wellFormed h (hrex _ hscan)

end Sys2Proof.Proofs
end

section
/-!
PROOFS. Memory's family: the canonical form of memory, an operand's checks and bytes, and the forms that read them
(20_memory.md R40 to R48).
-/

namespace Sys2Proof.Machine

open Sys2Proof.Safety

/-! ## Memory -/

/-- The first address of a canonical memory is the lowest one listed. -/
theorem Memory.head_le_of_read {a k : Nat} {b : Byte} {cells : Memory} (h : Memory.risesFrom (a + 1) cells = true)
    (hk : Memory.read ((a, b) :: cells) k ≠ none) : a ≤ k := by
  by_contra hlt
  exact hk (by rw [Memory.read_cons, if_neg (by omega), Memory.read_below h (by omega)])

/-- Memories whose addresses rise from above `lo` are equal where they read the same everywhere. -/
theorem Memory.eq_of_risesFrom {m m' : Memory} {lo : Nat} (h : m.risesFrom lo = true)
    (h' : m'.risesFrom lo = true) (hread : ∀ j, m.read j = m'.read j) : m = m' := by
  induction m generalizing lo m' with
  | nil =>
    cases m' with
    | nil => rfl
    | cons c' cells' =>
      obtain ⟨a', b'⟩ := c'
      simpa [Memory.read_cons] using hread a'
  | cons c cells ih =>
    obtain ⟨a, b⟩ := c
    cases m' with
    | nil => simpa [Memory.read_cons] using hread a
    | cons c' cells' =>
      obtain ⟨a', b'⟩ := c'
      simp only [Memory.risesFrom, Bool.and_eq_true, decide_eq_true_eq] at h h'
      have hle : a ≤ a' := Memory.head_le_of_read h.2 (b := b) (by simp [hread a', Memory.read_cons])
      have hge : a' ≤ a := Memory.head_le_of_read h'.2 (b := b') (by simp [← hread a, Memory.read_cons])
      obtain rfl := Nat.le_antisymm hle hge
      have hbyte : b = b' := by simpa [Memory.read_cons] using hread a
      have htail (j : Nat) : Memory.read cells j = Memory.read cells' j := by
        by_cases hj : a = j
        · subst hj
          rw [Memory.read_below h.2 (Nat.lt_succ_self a), Memory.read_below h'.2 (Nat.lt_succ_self a)]
        · simpa [Memory.read_cons, hj] using hread j
      rw [hbyte, ih h.2 h'.2 htail]

/-- The checks read no memory, and the read looks at the operand's bytes only (R43). -/
theorem readMem_mem_congr {s : State} {mem : Memory} {m : Mode} {seg : SegReg} {ea : Addr} {n : Nat}
    (h : ∀ k, k < n → mem.read (wrapAddr m (s.linearAddr m seg ea + BitVec.ofNat 64 k)).toNat
      = s.mem.read (wrapAddr m (s.linearAddr m seg ea + BitVec.ofNat 64 k)).toNat) :
    State.readMem { s with mem := mem } m seg ea n = s.readMem m seg ea n := by
  have hload : State.load { s with mem := mem } m (s.linearAddr m seg ea) n
      = s.load m (s.linearAddr m seg ea) n := by
    simp only [State.load, memRead_congr h]
  rw [readMem_eq s, ← hload, readMem_eq]
  rfl

theorem load_of_listed {s : State} {m : Mode} {lin : Addr} {n : Nat}
    (h : ∀ k, k < n → s.mem.read (wrapAddr m (lin + BitVec.ofNat 64 k)).toNat ≠ none) :
    ∃ v, memRead s.mem m lin n = some v ∧ s.load m lin n = .next v := by
  obtain ⟨v, hv⟩ := Option.isSome_iff_exists.1
    ((memRead_isSome s.mem m lin n).2 fun k hk => Option.isSome_iff_ne_none.2 (h k hk))
  exact ⟨v, hv, by simp only [State.load, hv]⟩

theorem load_of_not_listed {s : State} {m : Mode} {lin : Addr} {n : Nat}
    (h : ¬ ∀ k, k < n → s.mem.read (wrapAddr m (lin + BitVec.ofNat 64 k)).toNat ≠ none) :
    s.load m lin n = .refused .notOrdinaryMemory := by
  have hnone : memRead s.mem m lin n = none := by
    rw [← Option.not_isSome_iff_eq_none, memRead_isSome]
    simpa only [Option.isSome_iff_ne_none] using h
  simp only [State.load, hnone]

theorem mapNext_andThen {α : Type} (f : State → State) (r : Host.Outcome α Fault Refusal)
    (k : α → Host.Outcome State Fault Refusal) : mapNext f (andThen r k) = andThen r fun v => mapNext f (k v) := by
  cases r <;> rfl

/-! ## `#UD` and the memory operand that is looked at -/

theorem vexBytesUd_iff (p : VexPrefixes) (vvvv : BitVec 4) :
    VexBytesUd p vvvv ↔ (p.ud || vvvvUd vvvv) = true := by
  simp only [VexBytesUd, VexPrefixes.ud, vvvvUd, Bool.or_eq_true, bne_iff_ne, Option.isSome_iff_ne_none]
  tauto

theorem osAvxOff_iff (s : State) : OsAvxOff s ↔ s.osAvx = false := by
  simp only [OsAvxOff, State.osAvx, Bool.and_eq_false_iff, or_assoc]

/-- The gates and the bytes' conditions are the ones R130 to R132 list. -/
theorem raisesUd_iff (i : Instr) (s : State) : RaisesUd i s ↔ (i.udByBytes || s.gateUd i.enc) = true := by
  unfold RaisesUd Instr.udByBytes Instr.enc
  cases i.view with
  | legacy o p dst src =>
    simp only [LegacyUd, LegacyPrefixes.ud, State.gateUd, State.em, State.osSse, Bool.or_eq_true,
      Bool.not_eq_true']
    tauto
  | vex wide o p vvvv dst src =>
    cases wide <;> simp [Vex128Ud, Vex256Ud, vexBytesUd_iff, osAvxOff_iff, State.gateUd]

/-- A form whose memory operand is looked at goes on with the operand's value. -/
theorem exec_of_reachesOperand {i : Instr} {m : Mode} {s : State} {o : MemOperand} (h : ReachesOperand i m s o) :
    exec i s = andThen (s.readMem m (operandSeg i m o) (operandEa i m s o) (operandBytesOf i)) fun v =>
      .next ((s.ymmSet i.dst (resultOf i (s.ymmGet i.dst) v)).advance m i.len) := by
  obtain ⟨hsrc, hm, hud, hts⟩ := h
  rw [raisesUd_iff] at hud
  have hts : s.ts = false := hts
  rw [exec_eq_of_mode hm, if_neg hud, hts, if_neg Bool.false_ne_true, hsrc]
  rfl

/-! ## The operand's checks -/

theorem mem_operandBytes {m : Mode} {lin a : Addr} {n : Nat} :
    a ∈ operandBytes m lin n ↔ ∃ k, k < n ∧ wrapAddr m (lin + BitVec.ofNat 64 k) = a := by
  simp [operandBytes]

/-- R49 in numbers. -/
theorem canonical_iff (law : Law) (a : Addr) : canonical law a = true ↔ CanonicalNumber law a.toNat := by
  have ha := a.isLt
  cases law <;>
    simp only [canonical, CanonicalNumber, lawBits, Bool.or_eq_true, beq_iff_eq, BitVec.toNat_eq,
      BitVec.extractLsb'_toNat, BitVec.toNat_ofNat, BitVec.toNat_allOnes, Nat.shiftRight_eq_div_pow] <;>
    omega

theorem outsideLimit_iff (d : SegDesc) (ea : Addr) (n : Nat) :
    outsideLimit d ea n = true ↔ ∃ k, k < n ∧ ∃ r ∈ d.limit,
      ea.toNat + k < r.lowest.toNat ∨ r.highest.toNat < ea.toNat + k := by
  cases h : d.limit <;> simp [outsideLimit, h]

theorem segmentBad_iff (i : Instr) (m : Mode) (s : State) (o : MemOperand) :
    s.segmentBad m (operandSeg i m o) (operandEa i m s o) (operandBytesOf i) = true ↔ SegmentCheckFails i m s o := by
  cases m with
  | mode64 =>
    simp [State.segmentBad, SegmentCheckFails, mem_operandBytes, ← canonical_iff, operandByte, operandLin]
  | mode32 => simp [State.segmentBad, SegmentCheckFails, outsideLimit_iff]

theorem pageFaultCode_eq_none_iff (s : State) (a : Addr) : s.pageFaultCode a = none ↔ ¬ PageFaultsAt s a := by
  unfold State.pageFaultCode PageFaultsAt
  cases pageKindAt s.pages a <;> simp

theorem pageFault_eq_none_iff (i : Instr) (m : Mode) (s : State) (o : MemOperand) :
    s.pageFault m (operandLin i m s o) (operandBytesOf i) = none ↔ ¬ PageCheckFails i m s o := by
  have hbytes : s.faultingBytes m (operandLin i m s o) (operandBytesOf i) = []
      ↔ ∀ k, k < operandBytesOf i → ¬ PageFaultsAt s (operandByte i m s o k) := by
    simp [State.faultingBytes, mem_operandBytes, pageFaultCode_eq_none_iff, operandByte]
  have hpage : s.pageFault m (operandLin i m s o) (operandBytesOf i) = none
      ↔ s.paging = true → s.faultingBytes m (operandLin i m s o) (operandBytesOf i) = [] := by
    unfold State.pageFault
    cases s.paging <;> cases s.faultingBytes m (operandLin i m s o) (operandBytesOf i) <;> simp
  simp [hpage, hbytes, PageCheckFails]

theorem misaligned_iff (i : Instr) (m : Mode) (s : State) (o : MemOperand) :
    s.misaligned (operandLin i m s o) (operandBytesOf i) = true ↔ AlignmentCheckFails i m s o := by
  simp [State.misaligned, State.acEnabled, AlignmentCheckFails, and_assoc]

/-- Where no check fails, a form whose memory operand is looked at goes on with what memory holds. -/
theorem exec_of_checks_pass {i : Instr} {m : Mode} {s : State} {o : MemOperand} (h : ReachesOperand i m s o)
    (hseg : ¬ SegmentCheckFails i m s o) (hpage : ¬ PageCheckFails i m s o)
    (halign : ¬ AlignmentCheckFails i m s o) :
    exec i s = andThen (s.load m (operandLin i m s o) (operandBytesOf i)) fun v =>
      .next ((s.ymmSet i.dst (resultOf i (s.ymmGet i.dst) v)).advance m i.len) := by
  rw [← segmentBad_iff] at hseg
  rw [← pageFault_eq_none_iff] at hpage
  rw [← misaligned_iff] at halign
  rw [operandLin] at hpage halign
  rw [exec_of_reachesOperand h, readMem_eq, if_neg hseg, hpage]
  simp only [if_neg halign, operandLin]

/-! ## The destination's elements -/

/-- The elements of one helper call (R101 to R106). -/
def callElements (o : Op) : Nat := 128 / destWidth o

theorem destWidth_mul_callElements (o : Op) : destWidth o * callElements o = 128 := by
  cases o <;> rfl

/-- The low helper call is the packed sign extension of the source's first elements. -/
theorem lowLanes_eq_pse (o : Op) (v : Xmm) :
    lowLanes o v = pse (sourceWidth o) (destWidth o) 128
      (v.extractLsb' 0 (sourceWidth o * callElements o)) (callElements o) := by
  cases o <;> rfl

/-- The high helper call is the packed sign extension of the source's next elements. -/
theorem highLanes_eq_pse (o : Op) (v : Xmm) :
    highLanes o v = pse (sourceWidth o) (destWidth o) 128
      (v.extractLsb' (sourceWidth o * callElements o) (sourceWidth o * callElements o)) (callElements o) := by
  cases o <;> rfl

theorem element_lowLanes {o : Op} (v : Xmm) {k : Nat} (hk : k < callElements o) :
    element (destWidth o) k (lowLanes o v) = (element (sourceWidth o) k v).signExtend (destWidth o) := by
  rw [lowLanes_eq_pse, element_pse _ hk (destWidth_mul_callElements o).le,
    element_extractLsb' v 0 0 rfl (Nat.mul_le_mul_left _ hk), Nat.zero_add]

theorem element_highLanes {o : Op} (v : Xmm) {k : Nat} (hk : k < callElements o) :
    element (destWidth o) k (highLanes o v)
      = (element (sourceWidth o) (callElements o + k) v).signExtend (destWidth o) := by
  rw [highLanes_eq_pse, element_pse _ hk (destWidth_mul_callElements o).le,
    element_extractLsb' v _ (callElements o) rfl (Nat.mul_le_mul_left _ hk)]

/-- A form's result holds the sign-extended elements of the source's value, whatever the destination held. -/
theorem holdsExtended_resultOf (i : Instr) (old : Ymm) (v : Xmm) : HoldsExtended i v (resultOf i old v) := by
  intro k hk
  have hlow : k < callElements i.op → destWidth i.op * (k + 1) ≤ 128 := fun h =>
    (Nat.mul_le_mul_left _ h).trans (destWidth_mul_callElements i.op).le
  unfold resultOf
  cases he : i.enc with
  | legacy =>
    rw [he] at hk
    exact (element_append_low _ _ (hlow hk)).trans (element_lowLanes v hk)
  | vex128 =>
    rw [he] at hk
    exact (element_setWidth _ (hlow hk) (by decide)).trans (element_lowLanes v hk)
  | vex256 =>
    rw [he] at hk
    obtain hk' | hk' := Nat.lt_or_ge k (callElements i.op)
    · exact (element_append_low _ _ (hlow hk')).trans (element_lowLanes v hk')
    · obtain ⟨j, rfl⟩ := Nat.exists_eq_add_of_le hk'
      have htwo : elementBits .vex256 / destWidth i.op = callElements i.op + callElements i.op := by
        cases i.op <;> rfl
      have hj : j < callElements i.op := by omega
      exact (element_append_high _ _ (destWidth_mul_callElements i.op).symm).trans (element_highLanes v hj)

end Sys2Proof.Machine

namespace Sys2Proof.Proofs

open Sys2Proof.Machine Sys2Proof.Safety

/-- Settles O30: a form's only updates are a vector register and `pc`, and a register source reads no memory. -/
theorem noFormWritesMemory : Obligations.NoFormWritesMemory := by
  refine fun i s => ⟨fun t h => ?_, fun j mem hsrc => ?_⟩
  · obtain ⟨m, v, -, -, -, -, rfl⟩ := exec_next h
    exact fun a => rfl
  · exact exec_eq_mapNext (f := fun t => { t with mem := mem }) rfl (by cases i.enc <;> rfl) rfl
      (fun _ _ _ _ _ => by rw [hsrc]; rfl) rfl fun _ _ _ => rfl

/-- Settles O38: an operand that has a value is what memory holds, byte by byte. -/
theorem operandBytesAreLittleEndian : Obligations.OperandBytesAreLittleEndian := by
  intro s m ov z n len o v hn h
  obtain ⟨-, -, -, hread⟩ := readMem_next h
  exact memRead_bytes hn hread

/-- Settles O39: the operand's value depends on its bytes only, and where the checks pass a byte that is not listed
refuses the read. -/
theorem onlyTheOperandsBytesAreRead : Obligations.OnlyTheOperandsBytesAreRead := by
  refine fun i m s o h => ⟨fun mem hmem => ?_, fun hseg hpage halign hlisted => ?_⟩
  · have h' : ReachesOperand i m { s with mem := mem } o := h
    have hread : State.readMem { s with mem := mem } m (operandSeg i m o) (operandEa i m s o) (operandBytesOf i)
        = s.readMem m (operandSeg i m o) (operandEa i m s o) (operandBytesOf i) := readMem_mem_congr hmem
    rw [exec_of_reachesOperand h', exec_of_reachesOperand h, mapNext_andThen, ← hread]
    rfl
  · rw [exec_of_checks_pass h hseg hpage halign, load_of_not_listed hlisted]
    rfl

/-- Settles O44: where no check fails the operand is read, and the result holds its elements sign-extended. -/
theorem memorySourcesCompleteAtAnyAlignment : Obligations.MemorySourcesCompleteAtAnyAlignment := by
  intro i m s o h hseg hpage halign hlisted
  obtain ⟨v, hv, hload⟩ := load_of_listed hlisted
  have hexec := exec_of_checks_pass h hseg hpage halign
  rw [hload] at hexec
  refine ⟨_, v, hexec, sameButDst_ymmSet_advance .., rfl, (memRead_bytes (operandSize_le ..) hv).1, ?_⟩
  rw [State.ymmGet_advance, State.ymmGet_ymmSet_same]
  exact holdsExtended_resultOf i _ v

/-- Settles O56: the laws of one write, and a canonical memory is determined by what it reads. -/
theorem memoryReadsWhatWasWritten : Obligations.MemoryReadsWhatWasWritten := fun m k v =>
  ⟨m.read_write_same k v, fun _ => m.read_write_other v, Memory.wf_write k v, fun _ => Memory.eq_of_risesFrom⟩

end Sys2Proof.Proofs
end

section
/-!
PROOFS. The encoder's bytes read back: the fields of bytes, the source operand, the prefixes the encoder writes, and
the decoder as the inverse of the encoder (30_encoding.md R60 to R78).
-/

namespace Sys2Proof

open Sys2Proof.Safety

/-! ## What the decoder reads -/

/-- What the decoder makes of the bytes after the prefixes. -/
def decodeForm (m : Mode) (a : PrefixScan) : List Byte → Decoded
  | b0 :: b1 :: b2 :: b3 :: rest =>
    if b0 = 0x0F#8 ∧ b1 = 0x38#8 then decodeLegacy m a b2 b3 rest
    else if b0 = 0xC4#8 then
      match rest with
      | b4 :: rest => decodeVex m a b1 b2 b3 b4 rest
      | [] => .notInScope
    else .notInScope
  | _ => .notInScope

theorem decode_of_scan {m : Mode} {bs tail : List Byte} {a : PrefixScan} (h : scanPrefixes m {} bs = (a, tail)) :
    decode m bs = decodeForm m a tail := by
  rw [decode, h]
  match tail with
  | [] | [_] | [_, _] | [_, _, _] | _ :: _ :: _ :: _ :: _ => rfl

theorem decodeForm_legacy (m : Mode) (a : PrefixScan) (op modrm : Byte) (bs : List Byte) :
    decodeForm m a (0x0F#8 :: 0x38#8 :: op :: modrm :: bs) = decodeLegacy m a op modrm bs := rfl

theorem decodeForm_vex (m : Mode) (a : PrefixScan) (b1 b2 op modrm : Byte) (bs : List Byte) :
    decodeForm m a (0xC4#8 :: b1 :: b2 :: op :: modrm :: bs) = decodeVex m a b1 b2 op modrm bs := rfl

/-- A legacy form whose opcode and source are read is answered by its prefixes (R61, R62). -/
theorem decodeLegacy_of_source {m : Mode} {a : PrefixScan} {op modrm : Byte} {bs rest : List Byte} {o : Op}
    {src : Source} (ho : opOfByte op = some o)
    (hsrc : decodeSource (usesTable16 m a.addrSize) (a.rexBits.getLsbD 1) (a.rexBits.getLsbD 0) modrm bs
      = some (src, rest)) :
    decodeLegacy m a op modrm bs =
      if !a.opSize then .notInScope
      else if a.dup then .refused .repeatedPrefix
      else if a.group1 = some .repne ∨ a.group1 = some .rep then .refused .repBeforeLegacy
      else .insn (.legacy o ⟨a.group1.isSome, a.seg, a.addrSize, a.rexUse⟩
        (regNum (a.rexBits.getLsbD 2) (field53 modrm)) src) rest := by
  rw [decodeLegacy, ho, hsrc]

/-- A VEX form whose opcode and source are read, of the map and `pp` of R66, is answered by its prefixes and `vvvv`
(R62, R64, R77). -/
theorem decodeVex_of_source {m : Mode} {a : PrefixScan} {b1 b2 op modrm : Byte} {bs rest : List Byte} {o : Op}
    {src : Source} (ho : opOfByte op = some o)
    (hsrc : decodeSource (usesTable16 m a.addrSize) (!b1.getLsbD 6) (m == .mode64 && !b1.getLsbD 5) modrm bs
      = some (src, rest))
    (hmap : b1.extractLsb' 0 5 = 2#5) (hpp : b2.extractLsb' 0 2 = 1#2) (h11 : m = .mode32 → field76 b1 = 3#2) :
    decodeVex m a b1 b2 op modrm bs =
      if a.dup then .refused .repeatedPrefix
      else if m = .mode32 ∧ b2.extractLsb' 3 4 = 7#4 then .refused .vvvv0111
      else .insn (vexForm (b2.getLsbD 2) o ⟨a.group1, a.seg, a.opSize, a.addrSize, a.rex.isSome⟩
        (b2.extractLsb' 3 4) (regNum (!b1.getLsbD 7) (field53 modrm)) src) rest := by
  simp only [decodeVex, ho, hsrc]
  rw [if_neg (by simp [hmap, hpp]), if_neg fun h => h.2 (h11 h.1)]

theorem scanPrefixes_prefix {m : Mode} {b : Byte} {p : PrefixByte} (h : prefixOfByte m b = some p) (a : PrefixScan)
    (bs : List Byte) : scanPrefixes m a (b :: bs) = scanPrefixes m (scanOne a p) bs := by
  rw [scanPrefixes, h]

theorem scanPrefixes_stop {m : Mode} {b : Byte} (h : prefixOfByte m b = none) (a : PrefixScan) (bs : List Byte) :
    scanPrefixes m a (b :: bs) = (a, b :: bs) := by
  rw [scanPrefixes, h]

@[simp] theorem prefixOfByte_0F (m : Mode) : prefixOfByte m 0x0F#8 = none := by cases m <;> rfl

@[simp] theorem prefixOfByte_C4 (m : Mode) : prefixOfByte m 0xC4#8 = none := by cases m <;> rfl

/-! ## Fields of bytes -/

@[simp] theorem field76_byteOfFields (f76 : BitVec 2) (f53 f20 : BitVec 3) :
    field76 (byteOfFields f76 f53 f20) = f76 := by
  revert f76 f53 f20; decide

@[simp] theorem field53_byteOfFields (f76 : BitVec 2) (f53 f20 : BitVec 3) :
    field53 (byteOfFields f76 f53 f20) = f53 := by
  revert f76 f53 f20; decide

@[simp] theorem field20_byteOfFields (f76 : BitVec 2) (f53 f20 : BitVec 3) :
    field20 (byteOfFields f76 f53 f20) = f20 := by
  revert f76 f53 f20; decide

@[simp] theorem regNum_ext_bits (r : RegNum) : regNum (RegNum.ext r) (RegNum.bits r) = r := by
  revert r; decide

theorem ext_eq_not_low (r : RegNum) : RegNum.ext r = !RegNum.low r := by
  simp [RegNum.ext, RegNum.low]

@[simp] theorem opOfByte_byte (o : Op) : opOfByte o.byte = some o := by cases o <;> rfl

@[simp] theorem base16OfBits_bits (b : Base16) : base16OfBits b.bits = b := by cases b <;> rfl

/-! ## The source operand, encoded and decoded -/

@[simp] theorem takeDisp32_bytesOf32 (d : BitVec 32) (rest : List Byte) :
    takeDisp32 (bytesOf32 d ++ rest) = some (d, rest) := by
  have h : d.extractLsb' 24 8 ++ d.extractLsb' 16 8 ++ d.extractLsb' 8 8 ++ d.extractLsb' 0 8 = d := by
    ext i hi
    simp only [BitVec.getElem_append, BitVec.getElem_extractLsb']
    grind
  exact congrArg (fun w => some (w, rest)) h

@[simp] theorem takeDisp16_bytesOf16 (d : BitVec 16) (rest : List Byte) :
    takeDisp16 (bytesOf16 d ++ rest) = some (d, rest) := by
  have h : d.extractLsb' 8 8 ++ d.extractLsb' 0 8 = d := by
    ext i hi
    simp only [BitVec.getElem_append, BitVec.getElem_extractLsb']
    grind
  exact congrArg (fun w => some (w, rest)) h

@[simp] theorem takeDisp_bytes (d : Disp) (rest : List Byte) : takeDisp d.mod (d.bytes ++ rest) = some (d, rest) := by
  cases d <;> simp [takeDisp, Disp.mod, Disp.bytes]

@[simp] theorem takeDispFor16_bytes (d : Disp16) (rest : List Byte) :
    takeDispFor16 d.mod (d.bytes ++ rest) = some (d, rest) := by
  cases d <;> simp [takeDispFor16, Disp16.mod, Disp16.bytes]

@[simp] theorem Disp.mod_ne_three (d : Disp) : d.mod ≠ 3#2 := by cases d <;> simp [Disp.mod]

@[simp] theorem Disp16.mod_ne_three (d : Disp16) : d.mod ≠ 3#2 := by cases d <;> simp [Disp16.mod]

@[simp] theorem Disp.mod_eq_zero (d : Disp) : d.mod = 0#2 ↔ d.isNone = true := by
  cases d <;> simp [Disp.mod, Disp.isNone]

@[simp] theorem Disp16.mod_eq_zero (d : Disp16) : d.mod = 0#2 ↔ d.isNone = true := by
  cases d <;> simp [Disp16.mod, Disp16.isNone]

theorem Base16.bits_eq_six (b : Base16) : b.bits = 6#3 ↔ b = .bp := by cases b <;> decide

/-- A form of the 16-bit table has its bits back (R75). -/
theorem decodeMem16_encode {o : MemOperand} {ext : Bool} (h : o.wellFormed ext true = true) (rest : List Byte) :
    decodeMem16 (Source.mem o).encode.mod (Source.mem o).encode.rm ((Source.mem o).encode.tail ++ rest)
      = some (o, rest) := by
  cases o with
  | base16 b d =>
    have habs : d.isNone = true → b ≠ .bp := fun hd => by simpa [MemOperand.wellFormed, hd] using h
    simpa [decodeMem16, Source.encode, Base16.bits_eq_six] using habs
  | abs16 d => simp [decodeMem16, Source.encode]
  | _ => simp [MemOperand.wellFormed] at h

/-- A form of the 32-bit and 64-bit table has its bits back (R71, R72). -/
theorem decodeMem_encode {o : MemOperand} {ext : Bool} (h : o.wellFormed ext false = true) (rest : List Byte) :
    decodeMem (Source.mem o).encode.x (Source.mem o).encode.b (Source.mem o).encode.mod (Source.mem o).encode.rm
      ((Source.mem o).encode.tail ++ rest) = some (o, rest) := by
  cases o with
  | base b d =>
    have hfour : RegNum.bits b ≠ 4#3 := by simp_all [MemOperand.wellFormed]
    have hfive : d.isNone = true → RegNum.bits b ≠ 5#3 := fun hd => by simp_all [MemOperand.wellFormed]
    simpa [decodeMem, Source.encode, hfour] using hfive
  | sib s x b d =>
    have hfive : d.isNone = true → RegNum.bits b ≠ 5#3 := fun hd => by simp_all [MemOperand.wellFormed]
    simpa [decodeMem, decodeSib, Source.encode] using hfive
  | sibNoBase s x d => simp [decodeMem, decodeSib, Source.encode]
  | disp32 d => simp [decodeMem, Source.encode]
  | base16 b d => simp [MemOperand.wellFormed] at h
  | abs16 d => simp [MemOperand.wellFormed] at h

theorem mod_encode_mem_ne_three (o : MemOperand) : (Source.mem o).encode.mod ≠ 3#2 := by
  cases o <;> simp [Source.encode]

/-- A source that has an encoding is what its bits decode to (R67). -/
theorem decodeSource_encode {src : Source} {ext t16 : Bool} (h : src.wellFormed ext t16 = true) (reg : BitVec 3)
    (rest : List Byte) :
    decodeSource t16 src.encode.x src.encode.b (byteOfFields src.encode.mod reg src.encode.rm)
      (src.encode.tail ++ rest) = some (src, rest) := by
  unfold decodeSource
  rw [field76_byteOfFields, field20_byteOfFields]
  cases src with
  | reg j => simp [Source.encode]
  | mem o =>
    rw [if_neg (mod_encode_mem_ne_three o)]
    cases t16 with
    | true => simp [decodeMem16_encode h]
    | false => simp [decodeMem_encode h]

/-- Where there are no extension bits, a well-formed source needs none (R67). -/
theorem encode_ext_eq_false {src : Source} {t16 : Bool} (h : src.wellFormed false t16 = true) :
    src.encode.x = false ∧ src.encode.b = false := by
  cases src with
  | reg j => simpa [Source.encode, ext_eq_not_low, Source.wellFormed] using h
  | mem o => cases o <;> simp_all [Source.encode, ext_eq_not_low, Source.wellFormed, MemOperand.wellFormed]

/-! ## The encoder's prefixes -/

/-- An optional prefix byte is read as its prefix. -/
theorem scanPrefixes_presentByte {m : Mode} {c : Bool} {b : Byte} {p : PrefixByte}
    (h : c = true → prefixOfByte m b = some p) (a : PrefixScan) (bs : List Byte) :
    scanPrefixes m a (presentByte c b ++ bs) = scanPrefixes m (bif c then scanOne a p else a) bs := by
  cases c with
  | false => rfl
  | true => exact scanPrefixes_prefix (h rfl) a bs

/-- An optional prefix byte of a group is read as its prefix. -/
theorem scanPrefixes_toList {m : Mode} {α : Type} {f : α → Byte} {g : α → PrefixByte}
    (h : ∀ x, prefixOfByte m (f x) = some (g x)) (o : Option α) (a : PrefixScan) (bs : List Byte) :
    scanPrefixes m a ((o.map f).toList ++ bs) = scanPrefixes m (o.elim a fun x => scanOne a (g x)) bs := by
  cases o with
  | none => rfl
  | some x => exact scanPrefixes_prefix (h x) a bs

theorem prefixOfByte_seg (m : Mode) (s : SegReg) : prefixOfByte m s.byte = some (.seg s) := by
  cases m <;> cases s <;> rfl

theorem prefixOfByte_group1 (m : Mode) (g : Group1) : prefixOfByte m g.byte = some (.group1 g) := by
  cases m <;> cases g <;> rfl

theorem prefixOfByte_66 (m : Mode) : prefixOfByte m 0x66#8 = some .opSize := by cases m <;> rfl

theorem prefixOfByte_67 (m : Mode) : prefixOfByte m 0x67#8 = some .addrSize := by cases m <;> rfl

/-- In 64-bit mode 40H to 4FH are the REX bytes (R63). -/
theorem prefixOfByte_rex (wrxb : BitVec 4) : prefixOfByte .mode64 (4#4 ++ wrxb) = some (.rex wrxb) := by
  revert wrxb; decide

/-- The bits of the encoder's REX byte. -/
def rexOf (dst : RegNum) (e : SourceBits) : BitVec 4 :=
  BitVec.ofBool false ++ BitVec.ofBool (RegNum.ext dst) ++ BitVec.ofBool e.x ++ BitVec.ofBool e.b

/-- What the scan knows after the encoder's prefixes of a legacy form. -/
def LegacyPrefixes.scan (p : LegacyPrefixes) (wrxb : BitVec 4) : PrefixScan where
  group1 := bif p.lock then some .lock else none
  seg := p.seg
  opSize := true
  addrSize := p.addrSize
  rex := match p.rex with
    | .absent => none
    | .ignored => some 0#4
    | .effective => some wrxb
  rexLast := p.rex == .effective

/-- What the scan knows after the encoder's prefixes of a VEX form. -/
def VexPrefixes.scan (p : VexPrefixes) : PrefixScan where
  group1 := p.group1
  seg := p.seg
  opSize := p.opSize
  addrSize := p.addrSize
  rex := bif p.rex then some 0#4 else none
  rexLast := p.rex && p.group1.isNone && p.seg.isNone && !p.opSize && !p.addrSize

theorem scanPrefixes_encode_legacy {m : Mode} {p : LegacyPrefixes} (h : m = .mode64 ∨ p.rex = .absent) (o : Op)
    (dst : RegNum) (src : Source) (rest : List Byte) :
    scanPrefixes m {} (View.encode (.legacy o p dst src) ++ rest)
      = (p.scan (rexOf dst src.encode), 0x0F#8 :: 0x38#8 :: o.byte
          :: byteOfFields src.encode.mod (RegNum.bits dst) src.encode.rm :: (src.encode.tail ++ rest)) := by
  have hignored : (p.rex == .ignored) = true → prefixOfByte m 0x40#8 = some (.rex 0#4) := by
    obtain rfl | hrex := h
    · exact fun _ => prefixOfByte_rex 0#4
    · simp [hrex]
  have heffective : (p.rex == .effective) = true → prefixOfByte m (4#4 ++ BitVec.ofBool false
      ++ BitVec.ofBool (RegNum.ext dst) ++ BitVec.ofBool src.encode.x ++ BitVec.ofBool src.encode.b)
        = some (.rex (rexOf dst src.encode)) := by
    obtain rfl | hrex := h
    · unfold rexOf
      generalize RegNum.ext dst = r, src.encode.x = x, src.encode.b = b
      intro _
      revert r x b
      decide
    · simp [hrex]
  simp only [View.encode, List.append_assoc]
  rw [scanPrefixes_presentByte hignored, scanPrefixes_presentByte fun _ => prefixOfByte_group1 m .lock,
    scanPrefixes_toList (prefixOfByte_seg m), scanPrefixes_presentByte fun _ => prefixOfByte_67 m,
    List.singleton_append, scanPrefixes_prefix (prefixOfByte_66 m), scanPrefixes_presentByte heffective,
    List.cons_append, scanPrefixes_stop (prefixOfByte_0F m)]
  congr 1
  obtain ⟨lock, seg, addrSize, rex⟩ := p
  cases lock <;> cases seg <;> cases addrSize <;> cases rex <;> rfl

/-- The encoder's second byte of a VEX prefix (R64). -/
def vexByte1 (r x b : Bool) : Byte := BitVec.ofBool (!r) ++ BitVec.ofBool (!x) ++ BitVec.ofBool (!b) ++ 2#5

/-- The encoder's third byte of a VEX prefix (R64, R65). -/
def vexByte2 (vvvv : BitVec 4) (wide : Bool) : Byte := BitVec.ofBool false ++ vvvv ++ BitVec.ofBool wide ++ 1#2

theorem scanPrefixes_encode_vex {m : Mode} {p : VexPrefixes} (h : m = .mode64 ∨ p.rex = false) (wide : Bool) (o : Op)
    (vvvv : BitVec 4) (dst : RegNum) (src : Source) (rest : List Byte) :
    scanPrefixes m {} (View.encode (.vex wide o p vvvv dst src) ++ rest)
      = (p.scan, 0xC4#8
          :: vexByte1 (RegNum.ext dst) src.encode.x src.encode.b :: vexByte2 vvvv wide :: o.byte
          :: byteOfFields src.encode.mod (RegNum.bits dst) src.encode.rm :: (src.encode.tail ++ rest)) := by
  have hrex : p.rex = true → prefixOfByte m 0x40#8 = some (.rex 0#4) := by
    obtain rfl | hrex := h
    · exact fun _ => prefixOfByte_rex 0#4
    · simp [hrex]
  simp only [View.encode, List.append_assoc]
  rw [scanPrefixes_presentByte hrex, scanPrefixes_toList (prefixOfByte_group1 m),
    scanPrefixes_toList (prefixOfByte_seg m), scanPrefixes_presentByte fun _ => prefixOfByte_67 m,
    scanPrefixes_presentByte fun _ => prefixOfByte_66 m, List.cons_append, scanPrefixes_stop (prefixOfByte_C4 m)]
  congr 1
  obtain ⟨group1, seg, opSize, addrSize, rex⟩ := p
  cases group1 <;> cases seg <;> cases opSize <;> cases addrSize <;> cases rex <;> rfl

/-! ## The decoder is the inverse of the encoder -/

@[simp] theorem rexUse_scan (p : LegacyPrefixes) (wrxb : BitVec 4) : (p.scan wrxb).rexUse = p.rex := by
  obtain ⟨_, _, _, rex⟩ := p
  cases rex <;> rfl

theorem rexBits_scan_of_effective {p : LegacyPrefixes} (h : p.rex = .effective) (wrxb : BitVec 4) :
    (p.scan wrxb).rexBits = wrxb := by
  simp [PrefixScan.rexBits, LegacyPrefixes.scan, h]

theorem rexOf_getLsbD (dst : RegNum) (e : SourceBits) :
    (rexOf dst e).getLsbD 2 = RegNum.ext dst ∧ (rexOf dst e).getLsbD 1 = e.x ∧ (rexOf dst e).getLsbD 0 = e.b := by
  unfold rexOf
  generalize RegNum.ext dst = r, e.x = x, e.b = b
  revert r x b
  decide

/-- Without an effective REX byte the numbers of a well-formed legacy form need no extension bits, with one it holds
them (R61, R63). -/
theorem rexBits_scan {p : LegacyPrefixes} {dst : RegNum} {src : Source} {t16 : Bool}
    (hdst : (p.ext || RegNum.low dst) = true) (hsrc : src.wellFormed p.ext t16 = true) :
    let bits := (p.scan (rexOf dst src.encode)).rexBits
    bits.getLsbD 2 = RegNum.ext dst ∧ bits.getLsbD 1 = src.encode.x ∧ bits.getLsbD 0 = src.encode.b := by
  by_cases hrex : p.rex = .effective
  · simpa only [rexBits_scan_of_effective hrex] using rexOf_getLsbD dst src.encode
  · have hext : p.ext = false := by simpa [LegacyPrefixes.ext] using hrex
    rw [hext] at hdst hsrc
    obtain ⟨hx, hb⟩ := encode_ext_eq_false hsrc
    have hlow : RegNum.ext dst = false := by simpa [ext_eq_not_low] using hdst
    simp [rexBits_eq_zero ((rexUse_scan p _).trans_ne hrex), hx, hb, hlow]

theorem vexByte1_bits (r x b : Bool) :
    (!(vexByte1 r x b).getLsbD 7) = r ∧ (!(vexByte1 r x b).getLsbD 6) = x ∧ (!(vexByte1 r x b).getLsbD 5) = b
      ∧ (vexByte1 r x b).extractLsb' 0 5 = 2#5 ∧ (field76 (vexByte1 r x b) = 3#2 ↔ r = false ∧ x = false) := by
  revert r x b; decide

theorem vexByte2_bits (vvvv : BitVec 4) (wide : Bool) :
    (vexByte2 vvvv wide).extractLsb' 3 4 = vvvv ∧ (vexByte2 vvvv wide).getLsbD 2 = wide
      ∧ (vexByte2 vvvv wide).extractLsb' 0 2 = 1#2 := by
  revert vvvv wide; decide

/-- A well-formed legacy form is what its bytes decode to. -/
theorem decode_encode_legacy {m : Mode} {o : Op} {p : LegacyPrefixes} {dst : RegNum} {src : Source}
    (h : View.wellFormed m (.legacy o p dst src) = true) (rest : List Byte) :
    decode m (View.encode (.legacy o p dst src) ++ rest) = .insn (.legacy o p dst src) rest := by
  simp only [View.wellFormed, Bool.and_eq_true] at h
  obtain ⟨⟨hmode, hdst⟩, hsrc⟩ := h
  obtain ⟨hr, hx, hb⟩ := rexBits_scan hdst hsrc
  have hread := decodeSource_encode hsrc (RegNum.bits dst) rest
  rw [← hx, ← hb] at hread
  rw [decode_of_scan (scanPrefixes_encode_legacy (by simpa using hmode) ..), decodeForm_legacy,
    decodeLegacy_of_source (opOfByte_byte o) hread, hr, field53_byteOfFields, regNum_ext_bits, rexUse_scan]
  obtain ⟨lock, seg, addrSize, rex⟩ := p
  cases lock <;> rfl

/-- A well-formed VEX form is what its bytes decode to. -/
theorem decode_encode_vex {m : Mode} {wide : Bool} {o : Op} {p : VexPrefixes} {vvvv : BitVec 4} {dst : RegNum}
    {src : Source} (h : View.wellFormed m (.vex wide o p vvvv dst src) = true) (rest : List Byte) :
    decode m (View.encode (.vex wide o p vvvv dst src) ++ rest) = .insn (vexForm wide o p vvvv dst src) rest := by
  simp only [View.wellFormed, Bool.and_eq_true] at h
  obtain ⟨hmode, hsrc⟩ := h
  have hrex : m = .mode64 ∨ p.rex = false := by
    cases m <;> simp_all
  have hvvvv : m = .mode32 → vvvv ≠ 7#4 := by
    rintro rfl
    simp_all
  have hext : m = .mode32 → RegNum.ext dst = false ∧ src.encode.x = false ∧ src.encode.b = false := by
    rintro rfl
    exact ⟨by simp_all [ext_eq_not_low], encode_ext_eq_false hsrc⟩
  rw [decode_of_scan (scanPrefixes_encode_vex hrex ..), decodeForm_vex]
  obtain ⟨h7, h6, h5, hmap, h11⟩ := vexByte1_bits (RegNum.ext dst) src.encode.x src.encode.b
  obtain ⟨hv, hwide, hpp⟩ := vexByte2_bits vvvv wide
  generalize vexByte1 (RegNum.ext dst) src.encode.x src.encode.b = e1 at *
  have hb : (m == .mode64 && src.encode.b) = src.encode.b := by
    cases m with
    | mode64 => rfl
    | mode32 => exact (hext rfl).2.2.symm
  have hread := decodeSource_encode hsrc (RegNum.bits dst) rest
  rw [← hb, ← h6, ← h5] at hread
  rw [decodeVex_of_source (opOfByte_byte o) hread hmap hpp fun hm => h11.2 ⟨(hext hm).1, (hext hm).2.1⟩,
    hv, hwide, h7, field53_byteOfFields, regNum_ext_bits,
    if_neg (show ¬ p.scan.dup = true from Bool.false_ne_true), if_neg fun h => hvvvv h.1 h.2]
  obtain ⟨group1, seg, opSize, addrSize, rex⟩ := p
  cases rex <;> rfl

theorem instr_view (i : Instr) : i.view.instr = i := by cases i <;> rfl

theorem decode_encode {m : Mode} {i : Instr} (h : i.wellFormed m = true) (rest : List Byte) :
    decode m (encode i ++ rest) = .insn i rest := by
  rw [encode]
  nth_rw 2 [← instr_view i]
  cases hv : i.view with
  | legacy o p dst src => exact decode_encode_legacy (hv ▸ h) rest
  | vex wide o p vvvv dst src => exact decode_encode_vex (hv ▸ h) rest

end Sys2Proof

namespace Sys2Proof.Proofs

/-- Settles O19: each format's bytes are scanned and read back field by field. -/
theorem decodeOfEncodeIsTheInstruction : Obligations.DecodeOfEncodeIsTheInstruction :=
  fun _ _ rest h => decode_encode h rest

end Sys2Proof.Proofs
end

section
/-!
PROOFS. Prefixes as a list, what bytes in scope are, how many bytes the decoder reads, and an instruction's length
(30_encoding.md R60 to R62, R78).
-/

namespace Sys2Proof

open Sys2Proof.Safety

/-! ## A scan of prefixes, seen as the list of the prefixes read -/

/-- What a scan knows after the prefixes among these bytes. -/
def scanOf (m : Mode) (pre : List Byte) : PrefixScan := (pre.filterMap (prefixOfByte m)).foldl scanOne {}

/-- A prefix of this one's group was read. -/
def PrefixScan.has (a : PrefixScan) : PrefixByte → Bool
  | .group1 _ => a.group1.isSome
  | .seg _ => a.seg.isSome
  | .opSize => a.opSize
  | .addrSize => a.addrSize
  | .rex _ => a.rex.isSome

@[simp] theorem scanOne_dup (a : PrefixScan) (p : PrefixByte) : (scanOne a p).dup = (a.dup || a.has p) := by
  cases p <;> rfl

@[simp] theorem scanOne_has (a : PrefixScan) (p q : PrefixByte) :
    (scanOne a p).has q = (a.has q || sameGroup p q) := by
  cases p <;> cases q <;> simp [scanOne, PrefixScan.has, sameGroup]

theorem foldl_scanOne_has (a : PrefixScan) (ps : List PrefixByte) (q : PrefixByte) :
    (ps.foldl scanOne a).has q = (a.has q || ps.any (sameGroup · q)) := by
  induction ps generalizing a with
  | nil => simp
  | cons p ps ih => simp [ih, Bool.or_assoc]

/-- A scan finds no repetition where none was found before, each prefix is of a new group, and no two are of one. -/
theorem foldl_scanOne_dup_eq_false (a : PrefixScan) (ps : List PrefixByte) :
    (ps.foldl scanOne a).dup = false
      ↔ a.dup = false ∧ (∀ p ∈ ps, a.has p = false) ∧ ps.Pairwise fun p q => sameGroup p q = false := by
  induction ps generalizing a with
  | nil => simp
  | cons p ps ih =>
    simp only [List.foldl_cons, ih, scanOne_dup, scanOne_has, Bool.or_eq_false_iff, List.mem_cons, forall_eq_or_imp,
      List.pairwise_cons, forall_and]
    tauto

/-- R62: two prefixes of one group, or one repeated. -/
theorem scanOf_dup (m : Mode) (pre : List Byte) : (scanOf m pre).dup = true ↔ HasRedundant m pre := by
  have h := foldl_scanOne_dup_eq_false {} (pre.filterMap (prefixOfByte m))
  rw [HasRedundant, scanOf, ← Bool.not_eq_false, h]
  simp only [true_and]
  refine not_congr ⟨And.right, fun hp => ⟨fun p _ => ?_, hp⟩⟩
  cases p <;> rfl

/-- Where no prefix repeats, the first-group prefix known is the one read (R62). -/
theorem foldl_scanOne_group1 {a : PrefixScan} {ps : List PrefixByte} {g : Group1}
    (hdup : (ps.foldl scanOne a).dup = false) (hg : a.group1 = some g ∨ .group1 g ∈ ps) :
    (ps.foldl scanOne a).group1 = some g := by
  induction ps generalizing a with
  | nil => simpa using hg
  | cons p ps ih =>
    have hp : (scanOne a p).dup = false := ((foldl_scanOne_dup_eq_false _ ps).1 hdup).1
    refine ih hdup ?_
    rw [List.mem_cons] at hg
    cases p with
    | group1 g' =>
      have hnone : a.group1 = none := by simp_all [PrefixScan.has]
      simpa [scanOne, hnone, eq_comm] using hg
    | _ => simpa [scanOne] using hg

theorem prefixOfByte_eq_opSize {m : Mode} {b : Byte} : prefixOfByte m b = some .opSize ↔ b = 0x66#8 := by
  refine ⟨fun h => ?_, fun h => h ▸ prefixOfByte_66 m⟩
  unfold prefixOfByte at h
  split_ifs at h <;> simp_all

theorem prefixOfByte_eq_addrSize {m : Mode} {b : Byte} : prefixOfByte m b = some .addrSize ↔ b = 0x67#8 := by
  refine ⟨fun h => ?_, fun h => h ▸ prefixOfByte_67 m⟩
  unfold prefixOfByte at h
  split_ifs at h <;> simp_all

theorem scanOf_has (m : Mode) (pre : List Byte) (q : PrefixByte) :
    (scanOf m pre).has q = true ↔ ∃ p ∈ pre.filterMap (prefixOfByte m), sameGroup p q = true := by
  have hnone : PrefixScan.has {} q = false := by cases q <;> rfl
  rw [scanOf, foldl_scanOne_has, hnone, Bool.false_or, List.any_eq_true]

theorem scanOf_opSize (m : Mode) (pre : List Byte) : (scanOf m pre).opSize = true ↔ 0x66#8 ∈ pre := by
  have hq (p : PrefixByte) : sameGroup p .opSize = true ↔ p = .opSize := by cases p <;> simp [sameGroup]
  exact (scanOf_has m pre .opSize).trans (by simp [hq, prefixOfByte_eq_opSize])

theorem scanOf_addrSize (m : Mode) (pre : List Byte) : (scanOf m pre).addrSize = true ↔ 0x67#8 ∈ pre := by
  have hq (p : PrefixByte) : sameGroup p .addrSize = true ↔ p = .addrSize := by cases p <;> simp [sameGroup]
  exact (scanOf_has m pre .addrSize).trans (by simp [hq, prefixOfByte_eq_addrSize])

/-- A first-group prefix among prefixes none of which repeats is the one known (R62). -/
theorem scanOf_group1 {m : Mode} {pre : List Byte} {b : Byte} {g : Group1} (hdup : ¬ HasRedundant m pre)
    (hb : b ∈ pre) (hg : prefixOfByte m b = some (.group1 g)) : (scanOf m pre).group1 = some g := by
  rw [← scanOf_dup, Bool.not_eq_true] at hdup
  exact foldl_scanOne_group1 hdup (.inr (List.mem_filterMap.2 ⟨b, hb, hg⟩))

/-! ## How many prefixes were read -/

/-- The number of prefixes known. -/
def PrefixScan.count (a : PrefixScan) : Nat :=
  presentLen a.group1.isSome + presentLen a.seg.isSome + presentLen a.opSize + presentLen a.addrSize
    + presentLen a.rex.isSome

theorem scanOne_count {a : PrefixScan} {p : PrefixByte} (h : a.has p = false) :
    (scanOne a p).count = a.count + 1 := by
  cases p <;> simp [PrefixScan.has] at h <;> simp [scanOne, PrefixScan.count, h, presentLen] <;> omega

theorem foldl_scanOne_count {a : PrefixScan} {ps : List PrefixByte} (hdup : (ps.foldl scanOne a).dup = false) :
    (ps.foldl scanOne a).count = a.count + ps.length := by
  induction ps generalizing a with
  | nil => rfl
  | cons p ps ih =>
    have hp : (scanOne a p).dup = false := ((foldl_scanOne_dup_eq_false _ ps).1 hdup).1
    rw [List.foldl_cons, ih hdup, scanOne_count (by simp_all), List.length_cons]
    omega

/-! ## Prefixes before a form -/

theorem allPrefixes_cons {m : Mode} {b : Byte} {pre : List Byte} :
    AllPrefixes m (b :: pre) ↔ (∃ p, prefixOfByte m b = some p) ∧ AllPrefixes m pre := by
  simp [AllPrefixes, Option.isSome_iff_exists]

theorem length_filterMap_prefixOfByte {m : Mode} {pre : List Byte} (h : AllPrefixes m pre) :
    (pre.filterMap (prefixOfByte m)).length = pre.length := by
  induction pre with
  | nil => rfl
  | cons b pre ih =>
    obtain ⟨⟨p, hp⟩, hpre⟩ := allPrefixes_cons.1 h
    simp [hp, ih hpre]

/-- Where no prefix repeats, as many are known as there are bytes (R62). -/
theorem scanOf_count {m : Mode} {pre : List Byte} (h : AllPrefixes m pre) (hdup : (scanOf m pre).dup = false) :
    (scanOf m pre).count = pre.length := by
  rw [scanOf, foldl_scanOne_count hdup, length_filterMap_prefixOfByte h]
  exact Nat.zero_add _

theorem scanPrefixes_append {m : Mode} {pre : List Byte} (h : AllPrefixes m pre) (a : PrefixScan) (bs : List Byte) :
    scanPrefixes m a (pre ++ bs) = scanPrefixes m ((pre.filterMap (prefixOfByte m)).foldl scanOne a) bs := by
  induction pre generalizing a with
  | nil => rfl
  | cons b pre ih =>
    obtain ⟨⟨p, hp⟩, hpre⟩ := allPrefixes_cons.1 h
    rw [List.cons_append, scanPrefixes_prefix hp, ih hpre, List.filterMap_cons_some hp, List.foldl_cons]

/-- After prefixes a form is decoded by what the scan of them knows. -/
theorem decode_append_prefixes {m : Mode} {pre : List Byte} (h : AllPrefixes m pre) {b : Byte}
    (hb : prefixOfByte m b = none) (bs : List Byte) :
    decode m (pre ++ b :: bs) = decodeForm m (scanOf m pre) (b :: bs) :=
  decode_of_scan ((scanPrefixes_append h {} _).trans (scanPrefixes_stop hb _ bs))

/-- Prefixes alone are no form. -/
theorem decode_prefixes {m : Mode} {pre : List Byte} (h : AllPrefixes m pre) : decode m pre = .notInScope := by
  have hscan := scanPrefixes_append h {} []
  rw [List.append_nil] at hscan
  exact decode_of_scan hscan

/-- Every byte string is prefixes, alone or before a byte that is none. -/
theorem exists_prefixes (m : Mode) (bs : List Byte) :
    ∃ pre, AllPrefixes m pre ∧ (bs = pre ∨ ∃ b tail, prefixOfByte m b = none ∧ bs = pre ++ b :: tail) := by
  induction bs with
  | nil => exact ⟨[], by simp [AllPrefixes], .inl rfl⟩
  | cons b bs ih =>
    cases hb : prefixOfByte m b with
    | none => exact ⟨[], by simp [AllPrefixes], .inr ⟨b, bs, hb, rfl⟩⟩
    | some p =>
      obtain ⟨pre, hpre, hbs⟩ := ih
      refine ⟨b :: pre, allPrefixes_cons.2 ⟨⟨p, hb⟩, hpre⟩, ?_⟩
      obtain rfl | ⟨c, tail, hc, rfl⟩ := hbs
      · exact .inl rfl
      · exact .inr ⟨c, tail, hc, rfl⟩

/-! ## What the bytes of a form in scope are -/

/-- Bytes in scope start as one of the two formats (R61, R64). -/
theorem decodeForm_inScope {m : Mode} {a : PrefixScan} {bs : List Byte} (h : decodeForm m a bs ≠ .notInScope) :
    (∃ op modrm tail, bs = 0x0F#8 :: 0x38#8 :: op :: modrm :: tail)
      ∨ ∃ b1 b2 op modrm tail, bs = 0xC4#8 :: b1 :: b2 :: op :: modrm :: tail := by
  unfold decodeForm at h
  split at h
  · next b0 b1 b2 b3 tail =>
    split at h
    · next hmap => exact .inl ⟨b2, b3, tail, by rw [hmap.1, hmap.2]⟩
    · split at h
      · next hvex =>
        subst hvex
        split at h
        · next b4 tail => exact .inr ⟨b1, b2, b3, b4, tail, rfl⟩
        · exact absurd rfl h
      · exact absurd rfl h
  · exact absurd rfl h

theorem decode_legacy {m : Mode} {pre : List Byte} (h : AllPrefixes m pre) (op modrm : Byte) (tail : List Byte) :
    decode m (pre ++ 0x0F#8 :: 0x38#8 :: op :: modrm :: tail) = decodeLegacy m (scanOf m pre) op modrm tail :=
  decode_append_prefixes h (prefixOfByte_0F m) _

theorem decode_vex {m : Mode} {pre : List Byte} (h : AllPrefixes m pre) (b1 b2 op modrm : Byte) (tail : List Byte) :
    decode m (pre ++ 0xC4#8 :: b1 :: b2 :: op :: modrm :: tail) = decodeVex m (scanOf m pre) b1 b2 op modrm tail :=
  decode_append_prefixes h (prefixOfByte_C4 m) _

/-- Bytes in scope are prefixes and one of the two formats (R61, R64). -/
theorem decode_inScope {m : Mode} {bs : List Byte} (h : decode m bs ≠ .notInScope) :
    ∃ pre, AllPrefixes m pre ∧ ((∃ op modrm tail, bs = pre ++ 0x0F#8 :: 0x38#8 :: op :: modrm :: tail)
      ∨ ∃ b1 b2 op modrm tail, bs = pre ++ 0xC4#8 :: b1 :: b2 :: op :: modrm :: tail) := by
  obtain ⟨pre, hpre, rfl | ⟨b, tail, hb, rfl⟩⟩ := exists_prefixes m bs
  · exact absurd (decode_prefixes hpre) h
  · rw [decode_append_prefixes hpre hb] at h
    refine ⟨pre, hpre, ?_⟩
    obtain ⟨op, modrm, tail, hbs⟩ | ⟨b1, b2, op, modrm, tail, hbs⟩ := decodeForm_inScope h
    · exact .inl ⟨op, modrm, tail, by rw [hbs]⟩
    · exact .inr ⟨b1, b2, op, modrm, tail, by rw [hbs]⟩

/-- A legacy form in scope has an opcode of R68, a whole source and `66H` (R61). -/
theorem decodeLegacy_inScope {m : Mode} {a : PrefixScan} {op modrm : Byte} {bs : List Byte}
    (h : decodeLegacy m a op modrm bs ≠ .notInScope) :
    a.opSize = true ∧ ∃ o src rest, opOfByte op = some o
      ∧ decodeSource (usesTable16 m a.addrSize) (a.rexBits.getLsbD 1) (a.rexBits.getLsbD 0) modrm bs
        = some (src, rest) := by
  unfold decodeLegacy at h
  split at h
  · next o src rest ho hsrc =>
    split at h
    · exact absurd rfl h
    · next hsize => exact ⟨by simpa using hsize, o, src, rest, ho, hsrc⟩
  · exact absurd rfl h

/-- A VEX form in scope has an opcode of R68, a whole source, and the map and `pp` of R66; in 32-bit mode bits 7:6 of
its second byte are 11b (R77). -/
theorem decodeVex_inScope {m : Mode} {a : PrefixScan} {b1 b2 op modrm : Byte} {bs : List Byte}
    (h : decodeVex m a b1 b2 op modrm bs ≠ .notInScope) :
    b1.extractLsb' 0 5 = 2#5 ∧ b2.extractLsb' 0 2 = 1#2 ∧ (m = .mode32 → field76 b1 = 3#2)
      ∧ ∃ o src rest, opOfByte op = some o
        ∧ decodeSource (usesTable16 m a.addrSize) (!b1.getLsbD 6) (m == .mode64 && !b1.getLsbD 5) modrm bs
          = some (src, rest) := by
  simp only [decodeVex] at h
  split at h
  · next o src rest ho hsrc =>
    split at h
    · exact absurd rfl h
    · next hmap =>
      obtain ⟨hmmmmm, hpp⟩ := not_or.1 hmap
      split at h
      · exact absurd rfl h
      · next h11 =>
        exact ⟨not_not.1 hmmmmm, not_not.1 hpp, fun hm => not_not.1 fun hne => h11 ⟨hm, hne⟩, o, src, rest, ho, hsrc⟩
  · exact absurd rfl h

/-! ## How many bytes are read -/

/-- A reader takes as many bytes as what it read says, and does not look at the bytes after them. -/
def Reads {α : Type} (take : List Byte → Option (α × List Byte)) (len : α → Nat) : Prop :=
  ∀ bs v rest, take bs = some (v, rest) →
    bs.length = len v + rest.length ∧ ∀ ys, take (bs ++ ys) = some (v, rest ++ ys)

theorem Reads.map {α β : Type} {take : List Byte → Option (α × List Byte)} {len : α → Nat} (h : Reads take len)
    (f : α → β) {len' : β → Nat} (hlen : ∀ v, len' (f v) = len v) :
    Reads (fun bs => (take bs).map fun (v, bs) => (f v, bs)) len' := by
  intro bs w rest hw
  obtain ⟨⟨v, _⟩, hv, ⟨⟩⟩ := Option.map_eq_some_iff.1 hw
  obtain ⟨hcount, happend⟩ := h _ _ _ hv
  exact ⟨by rw [hcount, hlen], fun ys => by simp [happend]⟩

theorem Reads.nothing {α : Type} {v : α} {len : α → Nat} (h : len v = 0) : Reads (fun bs => some (v, bs)) len := by
  rintro bs _ _ ⟨⟩
  exact ⟨by rw [h, Nat.zero_add], fun ys => rfl⟩

theorem reads_takeDisp32 : Reads takeDisp32 fun _ => 4 := by
  intro bs d rest h
  unfold takeDisp32 at h
  split at h <;> cases h
  exact ⟨by simp; omega, fun ys => rfl⟩

theorem reads_takeDisp16 : Reads takeDisp16 fun _ => 2 := by
  intro bs d rest h
  unfold takeDisp16 at h
  split at h <;> cases h
  exact ⟨by simp; omega, fun ys => rfl⟩

theorem reads_takeDisp (mod : BitVec 2) : Reads (takeDisp mod) Disp.len := by
  unfold takeDisp
  split
  · exact .nothing rfl
  · split
    · intro bs d rest h
      cases bs with
      | nil => cases h
      | cons b bs => cases h; exact ⟨Nat.add_comm .., fun ys => rfl⟩
    · exact reads_takeDisp32.map Disp.disp32 fun _ => rfl

theorem reads_takeDispFor16 (mod : BitVec 2) : Reads (takeDispFor16 mod) Disp16.len := by
  unfold takeDispFor16
  split
  · exact .nothing rfl
  · split
    · intro bs d rest h
      cases bs with
      | nil => cases h
      | cons b bs => cases h; exact ⟨Nat.add_comm .., fun ys => rfl⟩
    · exact reads_takeDisp16.map Disp16.disp16 fun _ => rfl

theorem reads_decodeMem16 (mod : BitVec 2) (rm : BitVec 3) :
    Reads (decodeMem16 mod rm) fun o => (Source.mem o).tailLen := by
  unfold decodeMem16
  split
  · exact reads_takeDisp16.map MemOperand.abs16 fun _ => rfl
  · exact (reads_takeDispFor16 mod).map (MemOperand.base16 (base16OfBits rm)) fun _ => rfl

/-- A `SIB` form's tail is its `SIB` byte and a displacement (R72). -/
theorem decodeSib_reads {x b : Bool} {mod : BitVec 2} {sib : Byte} {bs rest : List Byte} {o : MemOperand}
    (h : decodeSib x b mod sib bs = some (o, rest)) :
    bs.length + 1 = (Source.mem o).tailLen + rest.length
      ∧ ∀ ys, decodeSib x b mod sib (bs ++ ys) = some (o, rest ++ ys) := by
  unfold decodeSib at h ⊢
  split at h
  · obtain ⟨⟨d, _⟩, hd, ⟨⟩⟩ := Option.map_eq_some_iff.1 h
    obtain ⟨hcount, happend⟩ := reads_takeDisp32 _ _ _ hd
    exact ⟨by simp only [Source.tailLen, hcount]; omega, fun ys => by simp_all⟩
  · obtain ⟨⟨d, _⟩, hd, ⟨⟩⟩ := Option.map_eq_some_iff.1 h
    obtain ⟨hcount, happend⟩ := reads_takeDisp mod _ _ _ hd
    exact ⟨by simp only [Source.tailLen]; omega, fun ys => by simp_all⟩

theorem reads_decodeMem (x b : Bool) (mod : BitVec 2) (rm : BitVec 3) :
    Reads (decodeMem x b mod rm) fun o => (Source.mem o).tailLen := by
  unfold decodeMem
  split
  · intro bs o rest h
    cases bs with
    | nil => cases h
    | cons sib bs => exact decodeSib_reads h
  · split
    · exact reads_takeDisp32.map MemOperand.disp32 fun _ => rfl
    · exact (reads_takeDisp mod).map (MemOperand.base (regNum b rm)) fun _ => rfl

/-- A source's tail is what follows `ModRM` (R71, R72, R75). -/
theorem reads_decodeSource (t16 x b : Bool) (modrm : Byte) : Reads (decodeSource t16 x b modrm) Source.tailLen := by
  unfold decodeSource
  split
  · exact .nothing rfl
  · split
    · exact (reads_decodeMem16 _ _).map Source.mem fun _ => rfl
    · exact (reads_decodeMem _ _ _ _).map Source.mem fun _ => rfl

/-! ## Bytes after a form -/

/-- A decoder's answer with more bytes after it. -/
def Decoded.append (d : Decoded) (ys : List Byte) : Decoded :=
  match d with
  | .insn i rest => .insn i (rest ++ ys)
  | .refused r => .refused r
  | .notInScope => .notInScope

theorem decodeLegacy_append {m : Mode} {a : PrefixScan} {op modrm : Byte} {bs : List Byte}
    (h : decodeLegacy m a op modrm bs ≠ .notInScope) (ys : List Byte) :
    decodeLegacy m a op modrm (bs ++ ys) = (decodeLegacy m a op modrm bs).append ys := by
  obtain ⟨-, o, src, rest, ho, hsrc⟩ := decodeLegacy_inScope h
  rw [decodeLegacy_of_source ho hsrc, decodeLegacy_of_source ho ((reads_decodeSource _ _ _ _ _ _ _ hsrc).2 ys)]
  split_ifs <;> rfl

theorem decodeVex_append {m : Mode} {a : PrefixScan} {b1 b2 op modrm : Byte} {bs : List Byte}
    (h : decodeVex m a b1 b2 op modrm bs ≠ .notInScope) (ys : List Byte) :
    decodeVex m a b1 b2 op modrm (bs ++ ys) = (decodeVex m a b1 b2 op modrm bs).append ys := by
  obtain ⟨hmap, hpp, h11, o, src, rest, ho, hsrc⟩ := decodeVex_inScope h
  rw [decodeVex_of_source ho hsrc hmap hpp h11,
    decodeVex_of_source ho ((reads_decodeSource _ _ _ _ _ _ _ hsrc).2 ys) hmap hpp h11]
  split_ifs <;> rfl

/-- Bytes in scope keep their answer when more bytes follow (R60). -/
theorem decode_append {m : Mode} {bs : List Byte} (h : decode m bs ≠ .notInScope) (ys : List Byte) :
    decode m (bs ++ ys) = (decode m bs).append ys := by
  obtain ⟨pre, hpre, ⟨op, modrm, tail, rfl⟩ | ⟨b1, b2, op, modrm, tail, rfl⟩⟩ := decode_inScope h
  · rw [decode_legacy hpre] at h ⊢
    rw [← decodeLegacy_append h, ← decode_legacy hpre, List.append_assoc]
    rfl
  · rw [decode_vex hpre] at h ⊢
    rw [← decodeVex_append h, ← decode_vex hpre, List.append_assoc]
    rfl

/-! ## Length (R78) -/

theorem enc_legacy (o : Op) (p : LegacyPrefixes) (dst : RegNum) (src : Source) :
    (Instr.legacy o p dst src).enc = .legacy := by
  simp [Instr.enc]

theorem enc_vexForm (wide : Bool) (o : Op) (p : VexPrefixes) (vvvv : BitVec 4) (dst : RegNum) (src : Source) :
    (vexForm wide o p vvvv dst src).enc ≠ .legacy := by
  cases wide <;> simp [Instr.enc]

theorem presentLen_le (b : Bool) : presentLen b ≤ 1 := by cases b <;> decide

theorem tailLen_le (src : Source) : src.tailLen ≤ 5 := by
  have hdisp (d : Disp) : d.len ≤ 4 := by cases d <;> simp [Disp.len]
  have hdisp16 (d : Disp16) : d.len ≤ 2 := by cases d <;> simp [Disp16.len]
  cases src with
  | reg j => exact Nat.zero_le 5
  | mem o =>
    cases o with
    | base b d => exact (hdisp d).trans (by decide)
    | sib s x b d => have := hdisp d; simp only [Source.tailLen]; omega
    | base16 b d => exact (hdisp16 d).trans (by decide)
    | _ => simp [Source.tailLen]

theorem presentLen_rexUse (a : PrefixScan) : presentLen (a.rexUse != .absent) = presentLen a.rex.isSome := by
  unfold PrefixScan.rexUse
  cases a.rex <;> cases a.rexLast <;> rfl

/-- A legacy form's length is its prefixes, the bytes `0FH 38H op ModRM` and its source's tail. -/
theorem legacyLen_of_scan {a : PrefixScan} (h : a.opSize = true) (src : Source) :
    legacyLen ⟨a.group1.isSome, a.seg, a.addrSize, a.rexUse⟩ src = a.count + 4 + src.tailLen := by
  simp only [legacyLen, PrefixScan.count, presentLen_rexUse, h]
  rw [show presentLen true = 1 from rfl]
  omega

/-- A VEX form's length is its prefixes, the bytes `C4H VEXb1 VEXb2 op ModRM` and its source's tail. -/
theorem vexLen_of_scan (a : PrefixScan) (src : Source) :
    vexLen ⟨a.group1, a.seg, a.opSize, a.addrSize, a.rex.isSome⟩ src = a.count + 5 + src.tailLen := by
  simp only [vexLen, PrefixScan.count]

/-- The bytes of an instruction and the rest are all there is. -/
theorem length_of_decode {m : Mode} {bs rest : List Byte} {i : Instr} (h : decode m bs = .insn i rest) :
    bs.length = i.len + rest.length := by
  obtain ⟨pre, hpre, ⟨op, modrm, tail, rfl⟩ | ⟨b1, b2, op, modrm, tail, rfl⟩⟩ :=
    decode_inScope (m := m) (bs := bs) (by simp [h])
  · rw [decode_legacy hpre] at h
    obtain ⟨o, src, -, hsrc, hsize, hdup, -, -, rfl⟩ := decodeLegacy_insn h
    have hcount := (reads_decodeSource _ _ _ _ _ _ _ hsrc).1
    simp only [Instr.len, view_legacy, legacyLen_of_scan hsize, scanOf_count hpre hdup, List.length_append,
      List.length_cons]
    omega
  · rw [decode_vex hpre] at h
    obtain ⟨o, src, -, hsrc, -, -, -, hdup, -, rfl⟩ := decodeVex_insn h
    have hcount := (reads_decodeSource _ _ _ _ _ _ _ hsrc).1
    simp only [Instr.len, view_vexForm, vexLen_of_scan, scanOf_count hpre hdup, List.length_append,
      List.length_cons]
    omega

/-- The bounds of R78 on a legacy form's length; LOCK, which raises `#UD`, is one byte more. -/
theorem legacyLen_bounds (p : LegacyPrefixes) (src : Source) :
    5 ≤ legacyLen p src ∧ legacyLen p src ≤ 13 + presentLen p.lock := by
  have := presentLen_le p.seg.isSome
  have := presentLen_le p.addrSize
  have := presentLen_le (p.rex != .absent)
  have := tailLen_le src
  unfold legacyLen
  omega

/-- The bounds of R78 on a VEX form's length; each prefix that raises `#UD` is one byte more. -/
theorem vexLen_bounds (p : VexPrefixes) (src : Source) :
    5 ≤ vexLen p src
      ∧ vexLen p src ≤ 12 + (presentLen p.group1.isSome + presentLen p.opSize + presentLen p.rex) := by
  have := presentLen_le p.seg.isSome
  have := presentLen_le p.addrSize
  have := tailLen_le src
  unfold vexLen
  omega

end Sys2Proof

namespace Sys2Proof.Proofs

open Sys2Proof.Safety

/-- Settles O21: every byte read is a prefix, one of the format's bytes, or the source's tail; the bounds are of the
lengths, whatever the bytes. -/
theorem decodeConsumesTheLength : Obligations.DecodeConsumesTheLength := by
  intro m bs i rest h
  refine ⟨length_of_decode h, ?_⟩
  unfold Instr.len Instr.udByBytes Instr.enc
  cases i.view with
  | legacy o p dst src =>
    have hbounds := legacyLen_bounds p src
    have := presentLen_le p.lock
    dsimp only
    refine ⟨hbounds.1, by omega, fun hud _ => ?_, fun _ h => absurd rfl h⟩
    have hlock : presentLen p.lock = 0 := by rw [show p.lock = false from hud]; rfl
    omega
  | vex wide o p vvvv dst src =>
    have hbounds := vexLen_bounds p src
    have := presentLen_le p.group1.isSome
    have := presentLen_le p.opSize
    have := presentLen_le p.rex
    dsimp only
    refine ⟨hbounds.1, by omega, fun _ h => by (cases wide <;> cases h), fun hud _ => ?_⟩
    have hnone : p.group1.isSome = false ∧ p.opSize = false ∧ p.rex = false := by
      simp_all [VexPrefixes.ud]
    simpa [hnone, presentLen] using hbounds.2

end Sys2Proof.Proofs
end

section
/-!
PROOFS. Bits that are ignored, bytes that are no form in scope, prefixes and `vvvv` that are refused or raise `#UD`
(30_encoding.md R61 to R66, R77 to R80).
-/

namespace Sys2Proof

open Sys2Proof.Safety

/-! ## Bits that are ignored -/

theorem decodeForm_vex_congr {m : Mode} {a : PrefixScan} {b1 b2 c1 c2 : Byte}
    (h : ∀ op modrm bs, decodeVex m a b1 b2 op modrm bs = decodeVex m a c1 c2 op modrm bs) (bs : List Byte) :
    decodeForm m a (0xC4#8 :: b1 :: b2 :: bs) = decodeForm m a (0xC4#8 :: c1 :: c2 :: bs) :=
  match bs with
  | [] | [_] => rfl
  | op :: modrm :: bs => h op modrm bs

theorem decodeForm_legacy_congr {m : Mode} {a a' : PrefixScan}
    (h : ∀ op modrm bs, decodeLegacy m a op modrm bs = decodeLegacy m a' op modrm bs) (bs : List Byte) :
    decodeForm m a (0x0F#8 :: bs) = decodeForm m a' (0x0F#8 :: bs) := by
  match bs with
  | [] | [_] | [_, _] => rfl
  | b1 :: op :: modrm :: bs => simp [decodeForm, h]

/-- `VEX.W` is bit 7 of the third byte, which the decoder does not look at (R64). -/
theorem decodeVex_xor_W (m : Mode) (a : PrefixScan) (b1 b2 op modrm : Byte) (bs : List Byte) :
    decodeVex m a b1 (b2 ^^^ 0x80#8) op modrm bs = decodeVex m a b1 b2 op modrm bs := by
  have hvvvv : (b2 ^^^ 0x80#8).extractLsb' 3 4 = b2.extractLsb' 3 4 := by revert b2; decide
  have hpp : (b2 ^^^ 0x80#8).extractLsb' 0 2 = b2.extractLsb' 0 2 := by revert b2; decide
  have hl : (b2 ^^^ 0x80#8).getLsbD 2 = b2.getLsbD 2 := by revert b2; decide
  unfold decodeVex
  rw [hvvvv, hpp, hl]

/-- `REX.W` is bit 3 of the four bits kept, of which the decoder looks at the others (R63). -/
theorem decodeLegacy_xor_W (m : Mode) (a : PrefixScan) (wrxb : BitVec 4) (op modrm : Byte) (bs : List Byte) :
    decodeLegacy m (scanOne a (.rex (wrxb ^^^ 8#4))) op modrm bs
      = decodeLegacy m (scanOne a (.rex wrxb)) op modrm bs := by
  have h2 : (wrxb ^^^ 8#4).getLsbD 2 = wrxb.getLsbD 2 := by revert wrxb; decide
  have h1 : (wrxb ^^^ 8#4).getLsbD 1 = wrxb.getLsbD 1 := by revert wrxb; decide
  have h0 : (wrxb ^^^ 8#4).getLsbD 0 = wrxb.getLsbD 0 := by revert wrxb; decide
  have hbits (w : BitVec 4) : (scanOne a (.rex w)).rexBits = w := rfl
  unfold decodeLegacy
  rw [hbits, hbits, h2, h1, h0]
  rfl

theorem scanOf_append_singleton {m : Mode} {b : Byte} {p : PrefixByte} (h : prefixOfByte m b = some p)
    (pre : List Byte) : scanOf m (pre ++ [b]) = scanOne (scanOf m pre) p := by
  simp [scanOf, List.filterMap_append, h]

/-- A REX byte before `0FH` is the last prefix. -/
theorem decode_rex_0F {pre : List Byte} (h : AllPrefixes .mode64 pre) (wrxb : BitVec 4) (bs : List Byte) :
    decode .mode64 (pre ++ (4#4 ++ wrxb) :: 0x0F#8 :: bs)
      = decodeForm .mode64 (scanOne (scanOf .mode64 pre) (.rex wrxb)) (0x0F#8 :: bs) := by
  have hrex := prefixOfByte_rex wrxb
  have hpre : AllPrefixes .mode64 (pre ++ [4#4 ++ wrxb]) := by
    intro b hb
    rw [List.mem_append, List.mem_singleton] at hb
    obtain hb | rfl := hb
    · exact h b hb
    · exact Option.isSome_iff_exists.2 ⟨_, hrex⟩
  rw [← scanOf_append_singleton hrex, ← decode_append_prefixes hpre (prefixOfByte_0F _), List.append_assoc]
  rfl

/-! ## Bytes that are no form in scope -/

theorem eq_byte_of_opOfByte {b : Byte} {o : Op} (h : opOfByte b = some o) : b = o.byte := by
  unfold opOfByte at h
  split_ifs at h <;> (cases h; assumption)

theorem opOfByte_eq_none {b : Byte} (h : b.toNat < 0x20 ∨ 0x25 < b.toNat) : opOfByte b = none := by
  refine Option.eq_none_iff_forall_ne_some.2 fun o ho => ?_
  obtain rfl := eq_byte_of_opOfByte ho
  revert h
  cases o <;> decide

/-- In 32-bit mode 40H to 4FH are no prefixes (R61), and are neither format's first byte. -/
theorem prefixOfByte_mode32_4x (wrxb : BitVec 4) :
    prefixOfByte .mode32 (4#4 ++ wrxb) = none ∧ (4#4 ++ wrxb : Byte) ≠ 0x0F#8 ∧ (4#4 ++ wrxb : Byte) ≠ 0xC4#8 := by
  revert wrxb; decide

theorem decodeForm_other_first {b : Byte} (h0F : b ≠ 0x0F#8) (hC4 : b ≠ 0xC4#8) (m : Mode) (a : PrefixScan)
    (bs : List Byte) : decodeForm m a (b :: bs) = .notInScope := by
  by_contra h
  obtain ⟨op, modrm, tail, hbs⟩ | ⟨b1, b2, op, modrm, tail, hbs⟩ := decodeForm_inScope h
  · exact h0F (List.cons.inj hbs).1
  · exact hC4 (List.cons.inj hbs).1

/-- After `0FH` a form in scope has 38H and an opcode of R68, and had `66H` before (R61). -/
theorem decodeForm_0F_inScope {m : Mode} {a : PrefixScan} {bs : List Byte}
    (h : decodeForm m a (0x0F#8 :: bs) ≠ .notInScope) :
    ∃ op tail, bs = 0x38#8 :: op :: tail ∧ a.opSize = true ∧ opOfByte op ≠ none := by
  obtain ⟨op, modrm, tail, hbs⟩ | ⟨b1, b2, op, modrm, tail, hbs⟩ := decodeForm_inScope h
  · cases hbs
    obtain ⟨hsize, o, -, -, ho, -⟩ := decodeLegacy_inScope h
    exact ⟨op, _, rfl, hsize, by simp [ho]⟩
  · exact absurd (List.cons.inj hbs).1 (by decide)

/-- After `C4H` a form in scope has the fields of R66 and R77 and an opcode of R68. -/
theorem decodeForm_C4_inScope {m : Mode} {a : PrefixScan} {bs : List Byte}
    (h : decodeForm m a (0xC4#8 :: bs) ≠ .notInScope) :
    ∃ b1 b2 op tail, bs = b1 :: b2 :: op :: tail ∧ b1.extractLsb' 0 5 = 2#5 ∧ b2.extractLsb' 0 2 = 1#2
      ∧ (m = .mode32 → field76 b1 = 3#2) ∧ opOfByte op ≠ none := by
  obtain ⟨op, modrm, tail, hbs⟩ | ⟨b1, b2, op, modrm, tail, hbs⟩ := decodeForm_inScope h
  · exact absurd (List.cons.inj hbs).1 (by decide)
  · cases hbs
    obtain ⟨hmap, hpp, h11, o, -, -, ho, -⟩ := decodeVex_inScope h
    exact ⟨b1, b2, op, _, rfl, hmap, hpp, h11, by simp [ho]⟩

/-- An instruction cut short is no form in scope (log 22): its bytes would decode to it, and it is longer. -/
theorem decode_take_of_lt_len {m : Mode} {bs rest : List Byte} {i : Instr} (h : decode m bs = .insn i rest) {k : Nat}
    (hk : k < i.len) : decode m (bs.take k) = .notInScope := by
  by_contra hscope
  have happend := decode_append hscope (bs.drop k)
  rw [List.take_append_drop, h] at happend
  cases hcut : decode m (bs.take k) with
  | insn i' rest' =>
    rw [hcut] at happend
    cases happend
    have hlen := length_of_decode hcut
    rw [List.length_take] at hlen
    omega
  | refused r => simp [hcut, Decoded.append] at happend
  | notInScope => exact hscope hcut

/-! ## Prefixes that are refused -/

/-- Whether a whole source stands there does not depend on the extension bits (R67, R71, R72). -/
theorem decodeSource_isSome_congr (t16 x b x' b' : Bool) (modrm : Byte) (bs : List Byte) :
    (decodeSource t16 x b modrm bs).isSome = (decodeSource t16 x' b' modrm bs).isSome := by
  have hsib (mod : BitVec 2) (sib : Byte) (bs : List Byte) :
      (decodeSib x b mod sib bs).isSome = (decodeSib x' b' mod sib bs).isSome := by
    unfold decodeSib
    split_ifs <;> simp only [Option.isSome_map]
  have hmem (mod : BitVec 2) (rm : BitVec 3) (bs : List Byte) :
      (decodeMem x b mod rm bs).isSome = (decodeMem x' b' mod rm bs).isSome := by
    unfold decodeMem
    split_ifs
    · cases bs with
      | nil => rfl
      | cons sib bs => exact hsib mod sib bs
    · rfl
    · simp only [Option.isSome_map]
  unfold decodeSource
  split_ifs
  · rfl
  · rfl
  · simp only [Option.isSome_map, hmem]

/-- A legacy form in scope after some prefixes is, after others with `66H` and the same address size, refused for the
prefixes R62 refuses. -/
theorem decodeLegacy_refused {m : Mode} {a0 a : PrefixScan} {op modrm : Byte} {bs : List Byte}
    (h : decodeLegacy m a0 op modrm bs ≠ .notInScope) (hz : a.addrSize = a0.addrSize) (hsize : a.opSize = true) :
    (a.dup = true → decodeLegacy m a op modrm bs = .refused .repeatedPrefix)
      ∧ (a.dup = false → a.group1 = some .repne ∨ a.group1 = some .rep →
        decodeLegacy m a op modrm bs = .refused .repBeforeLegacy) := by
  obtain ⟨-, o, src0, rest0, ho, hsrc0⟩ := decodeLegacy_inScope h
  have hsome : (decodeSource (usesTable16 m a.addrSize) (a.rexBits.getLsbD 1) (a.rexBits.getLsbD 0) modrm bs).isSome
      = true := by
    rw [hz, decodeSource_isSome_congr _ _ _ (a0.rexBits.getLsbD 1) (a0.rexBits.getLsbD 0), hsrc0, Option.isSome_some]
  obtain ⟨⟨src, rest⟩, hsrc⟩ := Option.isSome_iff_exists.1 hsome
  rw [decodeLegacy_of_source ho hsrc, hsize]
  exact ⟨fun hdup => by simp [hdup], fun hdup hrep => by simp [hdup, hrep]⟩

/-- A VEX form in scope after some prefixes is, after others with the same address size, refused for a repetition
(R62). -/
theorem decodeVex_refused {m : Mode} {a0 a : PrefixScan} {b1 b2 op modrm : Byte} {bs : List Byte}
    (h : decodeVex m a0 b1 b2 op modrm bs ≠ .notInScope) (hz : a.addrSize = a0.addrSize) (hdup : a.dup = true) :
    decodeVex m a b1 b2 op modrm bs = .refused .repeatedPrefix := by
  obtain ⟨hmap, hpp, h11, o, src, rest, ho, hsrc⟩ := decodeVex_inScope h
  rw [← hz] at hsrc
  rw [decodeVex_of_source ho hsrc hmap hpp h11, if_pos hdup]

/-- R62, U3, U4: a form's bytes after other prefixes. -/
theorem decode_refused_of_prefixes {m : Mode} {pre0 pre : List Byte} {b0 : Byte} {body : List Byte} {i : Instr}
    {rest : List Byte} (hpre0 : AllPrefixes m pre0) (hpre : AllPrefixes m pre) (hb0 : prefixOfByte m b0 = none)
    (h : decode m (pre0 ++ b0 :: body) = .insn i rest) (h67 : 0x67#8 ∈ pre ↔ 0x67#8 ∈ pre0)
    (h66 : i.enc = .legacy → 0x66#8 ∈ pre) :
    (HasRedundant m pre → decode m (pre ++ b0 :: body) = .refused .repeatedPrefix)
      ∧ (¬ HasRedundant m pre → i.enc = .legacy → 0xF2#8 ∈ pre ∨ 0xF3#8 ∈ pre →
        decode m (pre ++ b0 :: body) = .refused .repBeforeLegacy) := by
  have hz : (scanOf m pre).addrSize = (scanOf m pre0).addrSize := by
    rw [Bool.eq_iff_iff, scanOf_addrSize, scanOf_addrSize, h67]
  rw [decode_append_prefixes hpre0 hb0] at h
  rw [decode_append_prefixes hpre hb0]
  have hscope : decodeForm m (scanOf m pre0) (b0 :: body) ≠ .notInScope := by simp [h]
  obtain ⟨op, modrm, tail, hbs⟩ | ⟨b1, b2, op, modrm, tail, hbs⟩ := decodeForm_inScope hscope
  · cases hbs
    obtain ⟨o, src, -, -, -, -, -, -, rfl⟩ := decodeLegacy_insn h
    obtain ⟨hrepeated, hrep⟩ := decodeLegacy_refused hscope hz ((scanOf_opSize m pre).2 (h66 (enc_legacy ..)))
    refine ⟨fun hdup => hrepeated ((scanOf_dup m pre).2 hdup), fun hdup _ hmem => hrep ?_ ?_⟩
    · rwa [← scanOf_dup, Bool.not_eq_true] at hdup
    · exact hmem.imp (scanOf_group1 hdup · (prefixOfByte_group1 m .repne))
        (scanOf_group1 hdup · (prefixOfByte_group1 m .rep))
  · cases hbs
    obtain ⟨o, src, -, -, -, -, -, -, -, rfl⟩ := decodeVex_insn h
    exact ⟨fun hdup => decodeVex_refused hscope hz ((scanOf_dup m pre).2 hdup),
      fun _ henc => absurd henc (enc_vexForm _ _ _ _ _ _)⟩

theorem sameGroup_comm (p q : PrefixByte) : sameGroup p q = sameGroup q p := by
  cases p <;> cases q <;> rfl

/-- One more prefix is redundant where one of its group is there. -/
theorem hasRedundant_cons {m : Mode} {b : Byte} {p : PrefixByte} (hb : prefixOfByte m b = some p)
    (pre : List Byte) : HasRedundant m (b :: pre) ↔ (scanOf m pre).has p = true ∨ HasRedundant m pre := by
  have hhas : (∀ q ∈ pre.filterMap (prefixOfByte m), sameGroup p q = false) ↔ ¬ (scanOf m pre).has p = true := by
    simp [scanOf_has, sameGroup_comm p]
  rw [HasRedundant, HasRedundant, List.filterMap_cons_some hb, List.pairwise_cons, hhas]
  tauto

/-- What stands before `0FH` in the bytes of a well-formed legacy form. -/
theorem exists_prefixes_encode_legacy {m : Mode} {o : Op} {p : LegacyPrefixes} {dst : RegNum} {src : Source}
    (h : (Instr.legacy o p dst src).wellFormed m = true) (rest : List Byte) :
    ∃ pre body, AllPrefixes m pre ∧ encode (.legacy o p dst src) ++ rest = pre ++ 0x0F#8 :: body
      ∧ ¬ HasRedundant m pre ∧ 0x66#8 ∈ pre ∧ (scanOf m pre).group1.isSome = p.lock := by
  have hdec := decode_encode h rest
  obtain ⟨pre, hpre, ⟨op, modrm, tail, hbs⟩ | ⟨b1, b2, op, modrm, tail, hbs⟩⟩ :=
    decode_inScope (m := m) (bs := encode (.legacy o p dst src) ++ rest) (by simp [hdec])
  · rw [hbs, decode_legacy hpre] at hdec
    obtain ⟨o', src', -, -, hsize, hdup, -, -, hi⟩ := decodeLegacy_insn hdec
    have hview := congrArg Instr.view hi
    simp only [view_legacy, View.legacy.injEq] at hview
    obtain ⟨-, rfl, -, -⟩ := hview
    exact ⟨pre, _, hpre, hbs, by simp [← scanOf_dup, hdup], (scanOf_opSize m pre).1 hsize, rfl⟩
  · rw [hbs, decode_vex hpre] at hdec
    obtain ⟨o', src', -, -, -, -, -, -, -, hi⟩ := decodeVex_insn hdec
    exact absurd (hi ▸ enc_legacy o p dst src) (enc_vexForm _ _ _ _ _ _)

end Sys2Proof

namespace Sys2Proof.Proofs

open Sys2Proof.Safety

/-- Settles O23: the decoder does not look at the bit. -/
theorem widthBitsAreIgnored : Obligations.WidthBitsAreIgnored := by
  refine ⟨fun m pre b1 b2 bs hpre => ?_, fun pre wrxb bs hpre => ?_⟩
  · rw [decode_append_prefixes hpre (prefixOfByte_C4 m), decode_append_prefixes hpre (prefixOfByte_C4 m)]
    exact decodeForm_vex_congr (decodeVex_xor_W m (scanOf m pre) b1 b2) bs
  · rw [decode_rex_0F hpre, decode_rex_0F hpre]
    exact decodeForm_legacy_congr (decodeLegacy_xor_W .mode64 (scanOf .mode64 pre) wrxb) bs

/-- Settles O24: each clause denies what a form in scope has. -/
theorem bytesOutsideThePatternsAreNotInScope : Obligations.BytesOutsideThePatternsAreNotInScope := by
  refine ⟨fun m pre hpre => ?_, fun m bs i rest h k hk => decode_take_of_lt_len h hk⟩
  have hother (b : Byte) (bs : List Byte) (hb : prefixOfByte m b = none) (h0F : b ≠ 0x0F#8) (hC4 : b ≠ 0xC4#8) :
      decode m (pre ++ b :: bs) = .notInScope :=
    (decode_append_prefixes hpre hb bs).trans (decodeForm_other_first h0F hC4 ..)
  have h0F (bs : List Byte) := decode_append_prefixes hpre (prefixOfByte_0F m) bs
  have hC4 (bs : List Byte) := decode_append_prefixes hpre (prefixOfByte_C4 m) bs
  refine ⟨hother, fun bs => hother _ bs (by cases m <;> rfl) (by decide) (by decide), fun b bs hb => ?_,
    fun h66 bs => ?_, fun op bs hop => ?_, fun b1 b2 op bs hop => ?_, fun b1 b2 bs hfields => ?_,
    decode_prefixes hpre, ?_⟩
  · rw [h0F]
    by_contra h
    obtain ⟨op, tail, ⟨⟩, -⟩ := decodeForm_0F_inScope h
    exact hb rfl
  · rw [h0F]
    by_contra h
    obtain ⟨op, tail, -, hsize, -⟩ := decodeForm_0F_inScope h
    exact h66 ((scanOf_opSize m pre).1 hsize)
  · rw [h0F]
    by_contra h
    obtain ⟨op, tail, ⟨⟩, -, ho⟩ := decodeForm_0F_inScope h
    exact ho (opOfByte_eq_none hop)
  · rw [hC4]
    by_contra h
    obtain ⟨b1, b2, op, tail, ⟨⟩, -, -, -, ho⟩ := decodeForm_C4_inScope h
    exact ho (opOfByte_eq_none hop)
  · rw [hC4]
    by_contra h
    obtain ⟨b1, b2, op, tail, ⟨⟩, hmap, hpp, -, -⟩ := decodeForm_C4_inScope h
    exact hfields.elim (· hmap) (· hpp)
  · rintro rfl
    refine ⟨fun b bs hb => ?_, fun wrxb bs => ?_⟩
    · rw [hC4]
      by_contra h
      obtain ⟨b1, b2, op, tail, ⟨⟩, -, -, h11, -⟩ := decodeForm_C4_inScope h
      exact hb (h11 rfl)
    · obtain ⟨hnone, h0F, hC4⟩ := prefixOfByte_mode32_4x wrxb
      exact hother _ bs hnone h0F hC4

/-- Settles O25: with other prefixes before it the form stays in scope, so the prefixes answer. -/
theorem redundantPrefixesAreRefused : Obligations.RedundantPrefixesAreRefused := by
  refine ⟨fun m o p dst src rest hwf => ?_, fun m pre0 pre b0 body i rest hpre0 hpre hb0 h h67 h66 =>
    decode_refused_of_prefixes hpre0 hpre hb0 h h67 h66⟩
  obtain ⟨pre, body, hpre, hbs, hdup, h66, hlock⟩ := exists_prefixes_encode_legacy hwf rest
  have hdec := decode_encode hwf rest
  rw [hbs] at hdec ⊢
  have hmore (b : Byte) (q : PrefixByte) (hb : prefixOfByte m b = some q) (h67 : b ≠ 0x67#8) :=
    decode_refused_of_prefixes hpre (allPrefixes_cons.2 ⟨⟨q, hb⟩, hpre⟩) (prefixOfByte_0F m) hdec (by simp [h67.symm])
      fun _ => List.mem_cons_of_mem b h66
  refine ⟨(hmore _ _ (prefixOfByte_66 m) (by decide)).1
    ((hasRedundant_cons (prefixOfByte_66 m) pre).2 (.inl ((scanOf_opSize m pre).2 h66))), fun b hb => ?_⟩
  obtain ⟨g, hg⟩ : ∃ g, prefixOfByte m b = some (.group1 g) := by
    obtain rfl | rfl := hb
    · exact ⟨_, prefixOfByte_group1 m .repne⟩
    · exact ⟨_, prefixOfByte_group1 m .rep⟩
  obtain ⟨hrepeated, hrep⟩ := hmore b _ hg (by rintro rfl; simp at hb)
  have hredundant : HasRedundant m (b :: pre) ↔ p.lock = true := by
    rw [hasRedundant_cons hg, ← hlock]
    exact or_iff_left hdup
  split_ifs with hl
  · exact hrepeated (hredundant.2 hl)
  · exact hrep (mt hredundant.1 hl) (enc_legacy ..) (by obtain rfl | rfl := hb <;> simp)

/-- Settles O59: only `vvvv` and `VEX.L` differ, and the source is read from the bytes after them. -/
theorem otherVvvvRaiseInvalidOpcodeOrAreRefused : Obligations.OtherVvvvRaiseInvalidOpcodeOrAreRefused := by
  intro m pre b1 b2 c2 body i rest hpre h hpp
  have hform (b : Byte) : decode m (pre ++ 0xC4#8 :: b1 :: b :: body)
      = decodeForm m (scanOf m pre) (0xC4#8 :: b1 :: b :: body) :=
    decode_append_prefixes hpre (prefixOfByte_C4 m) _
  rw [hform] at h
  have hscope : decodeForm m (scanOf m pre) (0xC4#8 :: b1 :: b2 :: body) ≠ .notInScope := by simp [h]
  obtain ⟨op, modrm, tail, hbs⟩ | ⟨_, _, op, modrm, tail, hbs⟩ := decodeForm_inScope hscope
  · exact absurd (List.cons.inj hbs).1 (by decide)
  · cases hbs
    obtain ⟨o, src, ho, hsrc, hmap, -, h11, hdup, -, -⟩ := decodeVex_insn h
    have hvex := decodeVex_of_source ho hsrc hmap hpp h11
    rw [hdup, if_neg Bool.false_ne_true] at hvex
    rw [decodeAnswer, hform, decodeForm_vex, hvex]
    refine ⟨fun hm hv => if_pos ⟨hm, hv⟩, fun h15 h7 => ?_⟩
    rw [if_neg fun h => h7 h.1 h.2]
    have hud (p : VexPrefixes) (wide : Bool) (dst : RegNum) :
        (vexForm wide o p (c2.extractLsb' 3 4) dst src).udByBytes = true := by
      simp [Instr.udByBytes, vvvvUd, h15]
    exact ⟨⟨_, rfl, hud ..⟩, if_pos (hud ..)⟩

end Sys2Proof.Proofs
end

section
/-!
PROOFS. The operand's address: effective addresses as sums of integers, the segment an access uses, and linear
addresses (30_encoding.md R71 to R76).
-/

namespace Sys2Proof.Machine

open Sys2Proof.Safety

/-! ## Words as integers, modulo an address size -/

theorem addrBits_le (m : Mode) (z : Bool) : addrBits m z ≤ 64 := by cases m <;> cases z <;> decide

theorem pow_dvd_pow_64 {w : Nat} (hw : w ≤ 64) : (2 ^ w : Int) ∣ 2 ^ 64 := pow_dvd_pow 2 hw

theorem toNat_add_modEq {w : Nat} (hw : w ≤ 64) (x y : Addr) :
    ((x + y).toNat : Int) ≡ x.toNat + y.toNat [ZMOD 2 ^ w] := by
  have h : ((x + y).toNat : Int) ≡ x.toNat + y.toNat [ZMOD 2 ^ 64] := by
    rw [BitVec.toNat_add]
    push_cast
    exact Int.mod_modEq _ _
  exact h.of_dvd (pow_dvd_pow_64 hw)

theorem toInt_modEq_toNat {v : Nat} (d : BitVec v) : d.toInt ≡ d.toNat [ZMOD 2 ^ v] := by
  rw [BitVec.toInt_eq_toNat_bmod]
  exact_mod_cast Int.bmod_emod

/-- A sign-extended word is its signed value. -/
theorem toNat_signExtend_modEq {w v : Nat} (hw : w ≤ 64) (hv : v ≤ 64) (d : BitVec v) :
    ((d.signExtend 64).toNat : Int) ≡ d.toInt [ZMOD 2 ^ w] := by
  rw [← BitVec.toInt_signExtend_of_le hv]
  exact (toInt_modEq_toNat (d.signExtend 64)).symm.of_dvd (pow_dvd_pow_64 hw)

theorem gpr_modEq_regAt (s : State) (w : Nat) (r : RegNum) : ((s.gpr r).toNat : Int) ≡ regAt s w r [ZMOD 2 ^ w] := by
  unfold regAt
  push_cast
  exact (Int.mod_modEq _ _).symm

theorem dispValue_modEq {w : Nat} (hw : w ≤ 64) (d : Disp) : ((dispValue d).toNat : Int) ≡ dispInt d [ZMOD 2 ^ w] := by
  cases d with
  | none => rfl
  | disp8 d => exact toNat_signExtend_modEq hw (by decide) d
  | disp32 d => exact toNat_signExtend_modEq hw (by decide) d

theorem disp16Value_modEq (d : Disp16) : ((disp16Value d).toNat : Int) ≡ disp16Int d [ZMOD 2 ^ 16] := by
  cases d with
  | none => rfl
  | disp8 d => exact toNat_signExtend_modEq (by decide) (by decide) d
  | disp16 d => simp [disp16Value, disp16Int, Int.ModEq]

/-- The scaled index is the product, the register read at the address size (R72). -/
theorem scaledIndex_modEq {w : Nat} (hw : w ≤ 64) (s : State) (scale : BitVec 2) (index : RegNum) :
    ((s.scaledIndex scale index).toNat : Int) ≡ indexAt s w scale index [ZMOD 2 ^ w] := by
  unfold State.scaledIndex indexAt
  split_ifs
  · rfl
  · have h : ((s.gpr index <<< scale.toNat).toNat : Int) ≡ (s.gpr index).toNat * 2 ^ scale.toNat [ZMOD 2 ^ 64] := by
      rw [BitVec.toNat_shiftLeft, Nat.shiftLeft_eq]
      push_cast
      exact Int.mod_modEq _ _
    exact (h.of_dvd (pow_dvd_pow_64 hw)).trans ((gpr_modEq_regAt s w index).mul_right _)

theorem base16Value_modEq (s : State) (b : Base16) : ((s.base16Value b).toNat : Int) ≡ base16At s b [ZMOD 2 ^ 16] := by
  have hreg := gpr_modEq_regAt s 16
  have hsum (q r : RegNum) : ((s.gpr q + s.gpr r).toNat : Int) ≡ regAt s 16 q + regAt s 16 r [ZMOD 2 ^ 16] :=
    (toNat_add_modEq (by decide) _ _).trans ((hreg q).add (hreg r))
  cases b with
  | bxSi => exact hsum _ _
  | bxDi => exact hsum _ _
  | bpSi => exact hsum _ _
  | bpDi => exact hsum _ _
  | _ => exact hreg _

/-! ## Effective addresses -/

/-- An effective address is its form's sum modulo 2^AS (R72, R75). -/
theorem effectiveAddr_toNat (s : State) (m : Mode) (z : Bool) (len : Nat) (o : MemOperand) :
    (s.effectiveAddr m z len o).toNat
      = (s.addressSum m (s.pc + BitVec.ofNat 64 len) o).toNat % 2 ^ addrBits m z := by
  unfold State.effectiveAddr
  generalize s.addressSum m (s.pc + BitVec.ofNat 64 len) o = a
  cases m <;> cases z <;> simp [addrSizeOf, AddrSize.trunc, addrBits] <;> omega

theorem effectiveAddr_of_modEq {s : State} {m : Mode} {z : Bool} {len : Nat} {o : MemOperand} {n : Int}
    (h : ((s.addressSum m (s.pc + BitVec.ofNat 64 len) o).toNat : Int) ≡ n [ZMOD 2 ^ addrBits m z]) :
    ((s.effectiveAddr m z len o).toNat : Int) = n % 2 ^ addrBits m z := by
  rw [effectiveAddr_toNat]
  push_cast
  exact h

/-! ## Segments -/

theorem segmentOf_none (m : Mode) (o : MemOperand) : segmentOf m none o = defaultSeg o := by cases m <;> rfl

/-- R74: the base registers 4 and 5 and the 16-bit forms with BP. -/
theorem defaultSeg_eq_ss (o : MemOperand) :
    defaultSeg o = .ss
      ↔ (∃ d, o = .base 5#4 d) ∨ (∃ sc ix d, o = .sib sc ix 4#4 d) ∨ (∃ sc ix d, o = .sib sc ix 5#4 d)
        ∨ (∃ d, o = .base16 .bpSi d) ∨ (∃ d, o = .base16 .bpDi d) ∨ ∃ d, o = .base16 .bp d := by
  cases o with
  | base b d => simp [defaultSeg]
  | sib sc ix b d => simp [defaultSeg, or_iff_not_imp_left]
  | base16 b d => simp [defaultSeg, or_iff_not_imp_left]
  | _ => simp [defaultSeg]

theorem defaultSeg_eq_ss_or_ds (o : MemOperand) : defaultSeg o = .ss ∨ defaultSeg o = .ds := by
  cases o <;> simp only [defaultSeg, or_true] <;> split_ifs <;> simp

theorem segBase_toNat (s : State) (m : Mode) (r : SegReg) : (s.segBase m r).toNat = baseAt s m r := by
  cases r <;> cases m <;> simp [State.segBase, baseAt] <;> omega

theorem linearAddr_toNat (s : State) (m : Mode) (r : SegReg) (ea : Addr) :
    (s.linearAddr m r ea).toNat = (ea.toNat + (s.segBase m r).toNat) % 2 ^ linearBits m := by
  cases m with
  | mode64 => exact BitVec.toNat_add ..
  | mode32 =>
    simp only [State.linearAddr, wrapAddr, linearBits, BitVec.toNat_setWidth, BitVec.toNat_add]
    omega

end Sys2Proof.Machine

namespace Sys2Proof.Proofs

open Sys2Proof.Machine Sys2Proof.Safety

/-- Settles O34: each term of the sum is taken modulo the address size. -/
theorem baseAndSibAddressesAreSums : Obligations.BaseAndSibAddressesAreSums := by
  intro s m z len
  have hw := addrBits_le m z
  refine ⟨fun b d => effectiveAddr_of_modEq ?_, fun sc ix b d => effectiveAddr_of_modEq ?_,
    fun sc ix d => effectiveAddr_of_modEq ?_⟩
  · exact (toNat_add_modEq hw _ _).trans ((gpr_modEq_regAt s _ b).add (dispValue_modEq hw d))
  · have hsum := (toNat_add_modEq hw (s.gpr b) (s.scaledIndex sc ix)).trans
      ((gpr_modEq_regAt s _ b).add (scaledIndex_modEq hw s sc ix))
    exact (toNat_add_modEq hw _ _).trans (hsum.add (dispValue_modEq hw d))
  · exact (toNat_add_modEq hw _ _).trans
      ((scaledIndex_modEq hw s sc ix).add (toNat_signExtend_modEq hw (by decide) d))

/-- Settles O35: the sum starts from the next instruction's address, or from nothing. -/
theorem ripRelativeAddressIsFromTheNextInstruction : Obligations.RipRelativeAddressIsFromTheNextInstruction := by
  refine fun s z len d => ⟨effectiveAddr_of_modEq ?_, ?_⟩
  · have hw := addrBits_le .mode64 z
    have hlen : ((BitVec.ofNat 64 len).toNat : Int) ≡ len [ZMOD 2 ^ addrBits .mode64 z] := by
      refine Int.ModEq.of_dvd (pow_dvd_pow_64 hw) ?_
      rw [BitVec.toNat_ofNat]
      push_cast
      exact Int.mod_modEq _ _
    exact (toNat_add_modEq hw _ _).trans
      (((toNat_add_modEq hw _ _).trans (hlen.add_left _)).add (toNat_signExtend_modEq hw (by decide) d))
  · have h : ((s.effectiveAddr .mode32 false len (.disp32 d)).toNat : Int) = d.toInt % 2 ^ 32 :=
      effectiveAddr_of_modEq (toNat_signExtend_modEq (by decide) (by decide) d)
    have hlt : ((d.toNat : Int)) < 2 ^ 32 := by exact_mod_cast d.isLt
    rw [toInt_modEq_toNat d, Int.emod_eq_of_lt (Int.natCast_nonneg _) hlt] at h
    exact_mod_cast h

/-- Settles O36: each register and the displacement are taken modulo 2^16. -/
theorem sixteenBitAddressesFollowTheTable : Obligations.SixteenBitAddressesFollowTheTable := by
  refine fun s len => ⟨fun b d => effectiveAddr_of_modEq ?_, fun d => ?_⟩
  · exact (toNat_add_modEq (by decide) _ _).trans ((base16Value_modEq s b).add (disp16Value_modEq d))
  · rw [effectiveAddr_toNat]
    simpa [State.addressSum, addrBits] using d.isLt

/-- Settles O37: the default by the form, the override by mode and register, and the base added. -/
theorem segmentsAreChosenAndAdded : Obligations.SegmentsAreChosenAndAdded := by
  refine ⟨fun m o => ?_, fun m o => ?_, fun r o hfs hgs => ?_, fun m r o h => ?_, fun s m r ea => ?_⟩
  · rw [segmentOf_none]
    exact defaultSeg_eq_ss o
  · rw [segmentOf_none]
    exact defaultSeg_eq_ss_or_ds o
  · rw [segmentOf_none]
    cases r with
    | fs => exact absurd rfl hfs
    | gs => exact absurd rfl hgs
    | _ => rfl
  · obtain rfl | rfl | rfl := h
    · cases m <;> rfl
    · cases m <;> rfl
    · rfl
  · rw [linearAddr_toNat, segBase_toNat]

end Sys2Proof.Proofs
end

section
/-!
PROOFS. The legacy family: the packed sign extension in steps, the execution rule in the shape R107 to R124 share, and
the six legacy forms (40_pmovsx_legacy_sse.md R98 to R112).
-/

namespace Sys2Proof.Machine

open Sys2Proof.Safety

/-! ## The packed sign extension -/

/-- Each element keeps its signed value (R99). -/
theorem toInt_element_pse {n m a w i k : Nat} (s : BitVec a) (hnm : n ≤ m) (hi : i < k) (hw : m * k ≤ w) :
    (element m i (pse n m w s k)).toInt = (element n i s).toInt := by
  rw [element_pse s hi hw, BitVec.toInt_signExtend_of_le hnm]

/-- Each element depends on the source's element of the same number only (R99). -/
theorem element_pse_congr {n m a w i k : Nat} {s s' : BitVec a} (hi : i < k) (hw : m * k ≤ w)
    (h : element n i s = element n i s') : element m i (pse n m w s k) = element m i (pse n m w s' k) := by
  rw [element_pse s hi hw, element_pse s' hi hw, h]

/-- Two packed sign extensions with the same elements are equal, whatever their source's elements are wide. -/
theorem pse_ext {n n' m a a' w k : Nat} {s : BitVec a} {s' : BitVec a'}
    (h : ∀ i, i < k → (element n i s).signExtend m = (element n' i s').signExtend m) :
    pse n m w s k = pse n' m w s' k := by
  induction k with
  | zero => rfl
  | succ k ih => rw [pse, pse, ih fun i hi => h i (by omega), h k (by omega)]

/-- The packed sign extension reads the low bits that hold its elements only. -/
theorem pse_extractLsb' {n m a w l k : Nat} (s : BitVec a) (hl : n * k ≤ l) :
    pse n m w (s.extractLsb' 0 l) k = pse n m w s k :=
  pse_ext fun i hi => by
    rw [element_extractLsb' s 0 0 rfl ((Nat.mul_le_mul_left n hi).trans hl), Nat.zero_add]

theorem signExtend_signExtend {n m l : Nat} (x : BitVec n) (hnm : n ≤ m) (hml : m ≤ l) :
    (x.signExtend m).signExtend l = x.signExtend l :=
  BitVec.eq_of_toInt_eq <| by
    rw [BitVec.toInt_signExtend_of_le hml, BitVec.toInt_signExtend_of_le hnm,
      BitVec.toInt_signExtend_of_le (hnm.trans hml)]

/-- Widening the low elements of a widened value is widening the source's elements at once. -/
theorem pse_pse {n m l a w w' k j b : Nat} (s : BitVec a) (hnm : n ≤ m := by decide)
    (hml : m ≤ l := by decide) (hjk : j ≤ k := by decide) (hw : m * k ≤ w := by decide)
    (hb : m * j ≤ b := by decide) :
    pse m l w' ((pse n m w s k).extractLsb' 0 b) j = pse n l w' s j := by
  rw [pse_extractLsb' _ hb]
  refine pse_ext fun i hi => ?_
  rw [element_pse s (hi.trans_le hjk) hw, signExtend_signExtend _ hnm hml]

/-! ## The execution rule in the shape of the rules -/

/-- What holds of the next state may be replaced by what follows from it. -/
theorem behaves_mono {out : Host.Outcome State Fault Refusal} {ud : Prop} {src : Source}
    {read : Host.Outcome Xmm Fault Refusal} {s : State} {P Q : Xmm → State → Prop} (hPQ : ∀ v t, P v t → Q v t)
    (h : Behaves out ud src read s P) : Behaves out ud src read s Q := by
  obtain ⟨hud, hnm, hrun⟩ := h
  refine ⟨hud, hnm, fun hnud hts => ?_⟩
  obtain ⟨hfault, hrefused, hnext⟩ := hrun hnud hts
  exact ⟨hfault, hrefused, fun v hv => (hnext v hv).imp fun t ⟨ht, hP⟩ => ⟨ht, hPQ v t hP⟩⟩

/-- What an instruction that completes has made of the state, from the source's value (R100). -/
structure Completes (i : Instr) (m : Mode) (s : State) (v : Xmm) (t : State) : Prop where
  result : t.ymmGet i.dst = resultOf i (s.ymmGet i.dst) v
  pc : t.pc = nextPc m s.pc i.len
  frame : SameButDst i.dst s t

theorem completes_ymmSet_advance (i : Instr) (m : Mode) (s : State) (v : Xmm) :
    Completes i m s v ((s.ymmSet i.dst (resultOf i (s.ymmGet i.dst) v)).advance m i.len) :=
  ⟨State.ymmGet_ymmSet_same .., rfl, sameButDst_ymmSet_advance ..⟩

theorem Completes.holdsExtended {i : Instr} {m : Mode} {s t : State} {v : Xmm} (h : Completes i m s v t) :
    HoldsExtended i v (t.ymmGet i.dst) :=
  h.result ▸ holdsExtended_resultOf i _ v

/-- Every instruction in a supported mode does what R100 says, in its order. -/
theorem behaves_exec {i : Instr} {s : State} {m : Mode} (hm : s.mode? = some m) :
    Behaves (exec i s) (RaisesUd i s) i.src
      (s.readSource m (segOverride i) (has67 i) (operandSize i.enc i.op) i.len i.src) s (Completes i m s) := by
  rw [exec_eq_of_mode hm]
  refine ⟨fun hud => if_pos ((raisesUd_iff i s).1 hud), fun hud hts => ?_, fun hud hts => ?_⟩
  · rw [if_neg (mt (raisesUd_iff i s).2 hud), if_pos (show s.ts = true from hts)]
  · rw [if_neg (mt (raisesUd_iff i s).2 hud), if_neg (show ¬ s.ts = true from Bool.eq_false_iff.1 hts)]
    refine ⟨fun f hf => ?_, fun r hr => ?_, fun v hv => ?_⟩
    · exact ⟨by rw [hf]; rfl, readSource_fault hf⟩
    · exact ⟨by rw [hr]; rfl, readSource_refused hr⟩
    · exact ⟨_, by rw [hv]; rfl, completes_ymmSet_advance i m s v⟩

/-! ## The legacy forms -/

/-- A legacy form writes the elements to the destination's low half and keeps its bits 255:128 (R100). -/
theorem Completes.of_legacy {i : Instr} {m : Mode} {s t : State} {v : Xmm} (h : Completes i m s v t)
    (he : i.enc = .legacy) :
    HoldsExtended i v (t.ymmGet i.dst)
      ∧ (t.ymmGet i.dst).extractLsb' 128 128 = (s.ymmGet i.dst).extractLsb' 128 128
      ∧ t.pc = nextPc m s.pc i.len ∧ SameButDst i.dst s t := by
  refine ⟨h.holdsExtended, ?_, h.pc, h.frame⟩
  rw [h.result, resultOf, he]
  exact BitVec.extractLsb'_append_eq_left

/-- The six legacy forms follow one rule, each with its own opcode byte, operand size and widths (R68, R107 to
R112). -/
theorem legacyRule (o : Op) :
    LegacyRule (Instr.legacy o) o.byte (operandSize .legacy o)
      (Extends (sourceWidth o) (destWidth o) (callElements o)) := by
  refine ⟨fun dst src => ?_, fun p dst src s m hm => ?_⟩
  · rw [encode, view_legacy]
    exact ⟨_, _, rfl⟩
  · have hrule := behaves_mono (fun v t h => h.of_legacy (enc_legacy o p dst src)) (behaves_exec hm)
    -- By computation of the form's view, what `hrule` says of the instruction is what the rule says of its fields.
    cases o <;> exact hrule

end Sys2Proof.Machine

namespace Sys2Proof.Proofs

open Sys2Proof.Machine Sys2Proof.Safety

/-- Settles O45: each helper is the packed sign extension at its widths. -/
theorem helpersSignExtendEachElement : Obligations.HelpersSignExtendEachElement := by
  refine ⟨?_, ?_, ?_, ?_, ?_, ?_⟩ <;> exact fun v k hk => element_pse v hk (by decide)

/-- Settles O46: sign extension keeps the signed value, and each element is its own source element's. -/
theorem elementsKeepTheirSignedValue : Obligations.ElementsKeepTheirSignedValue := by
  refine ⟨?_, ?_, ?_, ?_, ?_, ?_, ?_, ?_, ?_, ?_, ?_, ?_⟩
  iterate 6 exact fun v k hk => toInt_element_pse v (by decide) hk (by decide)
  iterate 6 exact fun v w k hk => element_pse_congr hk (by decide)

/-- Settles O49: each step widens the elements of the step before. -/
theorem wideningInStepsEqualsWideningAtOnce : Obligations.WideningInStepsEqualsWideningAtOnce := by
  intro v
  have hbwd : packedSignExtendWordToDword ((packedSignExtendByteToWord v).extractLsb' 0 64) = pse 8 32 128 v 4 :=
    pse_pse v
  have hbd : packedSignExtendByteToDword (v.extractLsb' 0 32) = pse 8 32 128 v 4 := pse_extractLsb' v (by decide)
  have hbq : packedSignExtendByteToQword (v.extractLsb' 0 16) = pse 8 64 128 v 2 := pse_extractLsb' v (by decide)
  rw [hbwd, hbd, hbq]
  exact ⟨pse_pse v, pse_pse v, pse_pse v⟩

/-- Settles O1: the legacy rule at bytes and words. -/
theorem pmovsxbwExtendsEightBytesToWords : Obligations.PmovsxbwExtendsEightBytesToWords := legacyRule .bw

/-- Settles O2: the legacy rule at bytes and doublewords. -/
theorem pmovsxbdExtendsFourBytesToDwords : Obligations.PmovsxbdExtendsFourBytesToDwords := legacyRule .bd

/-- Settles O3: the legacy rule at bytes and quadwords. -/
theorem pmovsxbqExtendsTwoBytesToQwords : Obligations.PmovsxbqExtendsTwoBytesToQwords := legacyRule .bq

/-- Settles O4: the legacy rule at words and doublewords. -/
theorem pmovsxwdExtendsFourWordsToDwords : Obligations.PmovsxwdExtendsFourWordsToDwords := legacyRule .wd

/-- Settles O5: the legacy rule at words and quadwords. -/
theorem pmovsxwqExtendsTwoWordsToQwords : Obligations.PmovsxwqExtendsTwoWordsToQwords := legacyRule .wq

/-- Settles O6: the legacy rule at doublewords and quadwords. -/
theorem pmovsxdqExtendsTwoDwordsToQwords : Obligations.PmovsxdqExtendsTwoDwordsToQwords := legacyRule .dq

/-- Settles O43: a register source reads as a value, so the rule's completing case holds. -/
theorem registerSourcesComplete : Obligations.RegisterSourcesComplete := by
  intro i s m j hsrc hm hud hts
  obtain ⟨-, -, hrun⟩ := behaves_exec (i := i) hm
  obtain ⟨-, -, hnext⟩ := hrun hud hts
  rw [hsrc] at hnext
  obtain ⟨t, ht, hcompletes⟩ := hnext _ (readSource_reg ..)
  exact ⟨t, ht, hcompletes.frame, hcompletes.pc, hcompletes.holdsExtended⟩

end Sys2Proof.Proofs
end

section
/-!
PROOFS. The VEX.128 family: the execution rule in the shape the VEX forms share, and the six VEX.128 forms
(41_vpmovsx_vex128.md R113 to R118).
-/

namespace Sys2Proof.Machine

open Sys2Proof.Safety

/-! ## The forms of either vector length -/

/-- The encoding that `VEX.L` stands for (R65). -/
def vexEnc (wide : Bool) : Enc := if wide then .vex256 else .vex128

@[simp] theorem enc_vexForm_eq (wide : Bool) (o : Op) (p : VexPrefixes) (vvvv : BitVec 4) (dst : RegNum)
    (src : Source) : (vexForm wide o p vvvv dst src).enc = vexEnc wide := by
  cases wide <;> simp [Instr.enc, vexEnc]

@[simp] theorem op_vexForm (wide : Bool) (o : Op) (p : VexPrefixes) (vvvv : BitVec 4) (dst : RegNum)
    (src : Source) : (vexForm wide o p vvvv dst src).op = o := by
  simp [Instr.op]

/-- The `#UD` condition of the forms that `VEX.L` selects (R130 to R132). -/
def vexUd (wide : Bool) : VexPrefixes → BitVec 4 → State → Prop := if wide then Vex256Ud else Vex128Ud

/-- Without prefixes a VEX form is the three VEX bytes, the opcode byte, `ModRM` and what follows it (R64 to R66). -/
theorem encode_vexForm_plainVex (wide : Bool) (o : Op) (vvvv : BitVec 4) (dst : RegNum) (src : Source) :
    ∃ b1 b2 modrm tail,
      encode (vexForm wide o plainVex vvvv dst src) = [0xC4#8, b1, b2, o.byte, modrm] ++ tail
        ∧ b1.extractLsb' 0 5 = 2#5 ∧ b2.getLsbD 2 = wide ∧ b2.extractLsb' 0 2 = 1#2 := by
  obtain ⟨-, -, -, hmap, -⟩ := vexByte1_bits (RegNum.ext dst) src.encode.x src.encode.b
  obtain ⟨-, hl, hpp⟩ := vexByte2_bits vvvv wide
  rw [encode, view_vexForm]
  exact ⟨_, _, _, _, rfl, hmap, hl, hpp⟩

/-- The result of a VEX form holds as many sign-extended elements as fit its vector length (R98, R100). -/
theorem extends_resultOf_vexForm (wide : Bool) (o : Op) (p : VexPrefixes) (vvvv : BitVec 4) (dst : RegNum)
    (src : Source) (old : Ymm) (v : Xmm) :
    Extends (sourceWidth o) (destWidth o) (elementBits (vexEnc wide) / destWidth o) v
      (resultOf (vexForm wide o p vvvv dst src) old v) := by
  have h := holdsExtended_resultOf (vexForm wide o p vvvv dst src) old v
  rwa [HoldsExtended, op_vexForm, enc_vexForm_eq] at h

/-- A VEX form follows the rule of its vector length, with whatever holds of its result (R100). -/
theorem vexRule {wide : Bool} {o : Op} {lanes : Xmm → Ymm → Prop}
    (hlanes : ∀ p vvvv dst src old v, lanes v (resultOf (vexForm wide o p vvvv dst src) old v)) :
    VexRule wide (vexForm wide o) o.byte (operandSize (vexEnc wide) o) (vexUd wide) lanes := by
  refine ⟨encode_vexForm_plainVex wide o 15#4, fun p vvvv dst src s m hm => ?_⟩
  have hcompletes (v : Xmm) (t : State) (h : Completes (vexForm wide o p vvvv dst src) m s v t) :=
    And.intro (h.result ▸ hlanes p vvvv dst src (s.ymmGet _) v) (And.intro h.pc h.frame)
  have hrule := behaves_mono hcompletes (behaves_exec hm)
  -- By computation of the form's view, what `hrule` says of the instruction is what the rule says of its fields.
  cases wide <;> cases o <;> exact hrule

/-! ## The VEX.128 forms -/

/-- A VEX.128 form zeroes the destination's bits 255:128 (R100). -/
theorem resultOf_vex128_upper {i : Instr} (he : i.enc = .vex128) (old : Ymm) (v : Xmm) :
    (resultOf i old v).extractLsb' 128 128 = 0#128 := by
  simp only [resultOf, he]
  rw [BitVec.setWidth_eq_append (by decide), BitVec.extractLsb'_cast]
  exact BitVec.extractLsb'_append_eq_left

/-- The six VEX.128 forms follow one rule, each with its own opcode byte, operand size and widths (R68, R113 to
R118). -/
theorem vex128Rule (o : Op) :
    Vex128Rule (vexForm false o) o.byte (operandSize .vex128 o)
      (Extends (sourceWidth o) (destWidth o) (callElements o)) :=
  vexRule fun p vvvv dst src old v =>
    ⟨extends_resultOf_vexForm false o p vvvv dst src old v,
      resultOf_vex128_upper (enc_vexForm_eq false o p vvvv dst src) old v⟩

end Sys2Proof.Machine

namespace Sys2Proof.Proofs

open Sys2Proof.Machine Sys2Proof.Safety

/-- Settles O7: the VEX.128 rule at bytes and words. -/
theorem vpmovsxbw128ExtendsEightBytesToWords : Obligations.Vpmovsxbw128ExtendsEightBytesToWords := vex128Rule .bw

/-- Settles O8: the VEX.128 rule at bytes and doublewords. -/
theorem vpmovsxbd128ExtendsFourBytesToDwords : Obligations.Vpmovsxbd128ExtendsFourBytesToDwords := vex128Rule .bd

/-- Settles O9: the VEX.128 rule at bytes and quadwords. -/
theorem vpmovsxbq128ExtendsTwoBytesToQwords : Obligations.Vpmovsxbq128ExtendsTwoBytesToQwords := vex128Rule .bq

/-- Settles O10: the VEX.128 rule at words and doublewords. -/
theorem vpmovsxwd128ExtendsFourWordsToDwords : Obligations.Vpmovsxwd128ExtendsFourWordsToDwords := vex128Rule .wd

/-- Settles O11: the VEX.128 rule at words and quadwords. -/
theorem vpmovsxwq128ExtendsTwoWordsToQwords : Obligations.Vpmovsxwq128ExtendsTwoWordsToQwords := vex128Rule .wq

/-- Settles O12: the VEX.128 rule at doublewords and quadwords. -/
theorem vpmovsxdq128ExtendsTwoDwordsToQwords : Obligations.Vpmovsxdq128ExtendsTwoDwordsToQwords := vex128Rule .dq

end Sys2Proof.Proofs
end

section
/-!
PROOFS. The VEX.256 family: the six VEX.256 forms (42_vpmovsx_vex256.md R119 to R124).
-/

namespace Sys2Proof.Machine

open Sys2Proof.Safety

/-- The six VEX.256 forms follow one rule, each with its own opcode byte, operand size and widths: their elements
fill all 256 bits of the destination, so nothing more is said of its upper half (R68, R69, R119 to R124). -/
theorem vex256Rule (o : Op) :
    Vex256Rule (vexForm true o) o.byte (operandSize .vex256 o)
      (Extends (sourceWidth o) (destWidth o) (elementBits .vex256 / destWidth o)) :=
  vexRule (extends_resultOf_vexForm true o)

end Sys2Proof.Machine

namespace Sys2Proof.Proofs

open Sys2Proof.Machine Sys2Proof.Safety

/-- Settles O13: the VEX.256 rule at bytes and words. -/
theorem vpmovsxbw256ExtendsSixteenBytesToWords : Obligations.Vpmovsxbw256ExtendsSixteenBytesToWords := vex256Rule .bw

/-- Settles O14: the VEX.256 rule at bytes and doublewords. -/
theorem vpmovsxbd256ExtendsEightBytesToDwords : Obligations.Vpmovsxbd256ExtendsEightBytesToDwords := vex256Rule .bd

/-- Settles O15: the VEX.256 rule at bytes and quadwords. -/
theorem vpmovsxbq256ExtendsFourBytesToQwords : Obligations.Vpmovsxbq256ExtendsFourBytesToQwords := vex256Rule .bq

/-- Settles O16: the VEX.256 rule at words and doublewords. -/
theorem vpmovsxwd256ExtendsEightWordsToDwords : Obligations.Vpmovsxwd256ExtendsEightWordsToDwords := vex256Rule .wd

/-- Settles O17: the VEX.256 rule at words and quadwords. -/
theorem vpmovsxwq256ExtendsFourWordsToQwords : Obligations.Vpmovsxwq256ExtendsFourWordsToQwords := vex256Rule .wq

/-- Settles O18: the VEX.256 rule at doublewords and quadwords. -/
theorem vpmovsxdq256ExtendsFourDwordsToQwords : Obligations.Vpmovsxdq256ExtendsFourDwordsToQwords := vex256Rule .dq

end Sys2Proof.Proofs
end

section
/-!
PROOFS. The exceptions' family: which fault a form answers, in R139's order, with its vector and error code, and what
the privilege level matters to (60_exceptions.md R130 to R145).
-/

namespace Sys2Proof.Machine

open Sys2Proof.Safety

/-! ## The alignment check -/

theorem alignStop_fault {n : Nat} {f : Fault} (h : alignStop n = .fault f) : f = .ac ∧ n ≠ 16 := by
  unfold alignStop at h
  split at h
  · cases h
  · next hn =>
    cases h
    exact ⟨rfl, hn⟩

/-- Nothing follows the stop of a misaligned operand. -/
theorem andThen_alignStop (n : Nat) (k : Xmm → Host.Outcome State Fault Refusal) :
    andThen (alignStop n) k = if n = 16 then .refused .alignCheck16 else .fault .ac := by
  unfold alignStop
  split <;> rfl

/-! ## The page check -/

theorem pageFault_of_not_paging {s : State} (h : s.paging = false) (m : Mode) (lin : Addr) (n : Nat) :
    s.pageFault m lin n = none := by
  simp [State.pageFault, h]

theorem mem_faultingBytes {s : State} {m : Mode} {lin a : Addr} {n : Nat} {code : BitVec 32} :
    (a, code) ∈ s.faultingBytes m lin n ↔ a ∈ operandBytes m lin n ∧ s.pageFaultCode a = some code := by
  simp only [State.faultingBytes, List.mem_filterMap, Option.map_eq_some_iff, Prod.mk.injEq]
  constructor
  · rintro ⟨_, ha, _, hcode, rfl, rfl⟩
    exact ⟨ha, hcode⟩
  · exact fun ⟨ha, hcode⟩ => ⟨a, ha, code, hcode, rfl, rfl⟩

theorem getD_mem_of_mem {α : Type} {l : List α} {d : α} (k : Nat) (hd : d ∈ l) : l.getD k d ∈ l := by
  rw [List.getD_eq_getElem?_getD]
  cases h : l[k]? with
  | none => exact hd
  | some x => exact List.mem_of_getElem? h

/-- The fault reported is one of the bytes', with that byte's own code: where the codes are all the same, the first
byte's is the chosen byte's. -/
theorem reportedPageFault_eq (lin : Addr) (n : Nat) (first : Addr × BitVec 32) (rest : List (Addr × BitVec 32)) :
    ∃ p ∈ first :: rest, reportedPageFault lin n first rest = .pf p.2 p.1 := by
  have hmem := getD_mem_of_mem (Config.faultingByte lin n % (first :: rest).length)
    (List.mem_cons_self (a := first) (l := rest))
  refine ⟨_, hmem, ?_⟩
  simp only [reportedPageFault, Fault.pf.injEq, and_true]
  split
  · next hall =>
    obtain heq | hrest := List.mem_cons.1 hmem
    · rw [heq]
    · exact (beq_iff_eq.1 (List.all_eq_true.1 hall _ hrest)).symm
  · rfl

/-- A page fault is that of a byte of the operand, with that byte's error code. -/
theorem pageFault_some_byte {s : State} {m : Mode} {lin : Addr} {n : Nat} {f : Fault}
    (h : s.pageFault m lin n = some f) :
    ∃ a code, a ∈ operandBytes m lin n ∧ s.pageFaultCode a = some code ∧ f = .pf code a := by
  unfold State.pageFault at h
  split at h
  · split at h
    · cases h
    · next first rest hbytes =>
      obtain ⟨⟨a, code⟩, hmem, heq⟩ := reportedPageFault_eq lin n first rest
      obtain ⟨ha, hcode⟩ := mem_faultingBytes.1 (hbytes ▸ hmem)
      exact ⟨a, code, ha, hcode, (Option.some.inj h).symm.trans heq⟩
  · cases h

/-- A page fault's error code, by the kind of the page (R136). -/
theorem pageFaultCode_some {s : State} {a : Addr} {code : BitVec 32} (h : s.pageFaultCode a = some code) :
    PageFaultsAt s a
      ∧ code = pfCode (decide (pageKindAt s.pages a ≠ .notPresent)) (decide (s.cpl = 3#2))
        (decide (pageKindAt s.pages a = .reservedBit)) := by
  refine ⟨by_contra fun hno => ?_, ?_⟩
  · rw [(pageFaultCode_eq_none_iff s a).2 hno] at h
    cases h
  · unfold State.pageFaultCode at h
    cases hkind : pageKindAt s.pages a with
    | notPresent | reservedBit => simpa [hkind, beq_eq_decide] using h.symm
    | supervisor =>
      by_cases huser : s.cpl = 3#2
      · simpa [hkind, huser] using h.symm
      · simp [hkind, huser] at h
    | user => simp [hkind] at h

/-- The bits of a page fault's error code (R136). -/
theorem pfCode_bits (present user reserved : Bool) :
    (pfCode present user reserved).getLsbD 0 = present ∧ (pfCode present user reserved).getLsbD 1 = false
      ∧ (pfCode present user reserved).getLsbD 2 = user ∧ (pfCode present user reserved).getLsbD 3 = reserved
      ∧ (pfCode present user reserved).getLsbD 4 = false ∧ (pfCode present user reserved).toNat < 16 := by
  revert present user reserved
  decide

/-! ## What a form answers -/

/-- The fault of a memory operand, by the check that failed (R134 to R137). -/
theorem readMem_fault_cases {s : State} {m : Mode} {seg : SegReg} {ea : Addr} {n : Nat} {f : Fault}
    (h : s.readMem m seg ea n = .fault f) :
    f = segmentFault seg ∨ (∃ code linear, f = .pf code linear) ∨ (f = .ac ∧ n ≠ 16) := by
  rw [readMem_eq] at h
  split at h
  · cases h
    exact .inl rfl
  · split at h
    · split at h
      · exact .inr (.inr (alignStop_fault h))
      · unfold State.load at h
        split at h <;> cases h
    · next hpage =>
      split at h
      · exact .inr (.inr (alignStop_fault h))
      · cases h
        exact .inr (.inl (pageFault_some hpage))

/-- A form that answers a fault is in a supported mode, and the fault is `#UD`, or `#NM`, or its memory operand's
(R139). -/
theorem exec_fault {i : Instr} {s : State} {f : Fault} (h : exec i s = .fault f) :
    ∃ m, s.mode? = some m ∧
      ((f = .ud ∧ RaisesUd i s) ∨ (f = .nm ∧ ¬ RaisesUd i s ∧ s.cr0.getLsbD 3 = true)
        ∨ ∃ o, ReachesOperand i m s o
          ∧ s.readMem m (operandSeg i m o) (operandEa i m s o) (operandBytesOf i) = .fault f) := by
  cases hm : s.mode? with
  | none =>
    rw [exec_of_mode_none hm] at h
    cases h
  | some m =>
    refine ⟨m, rfl, ?_⟩
    obtain ⟨hudFault, hnmFault, hrun⟩ := behaves_exec (i := i) hm
    by_cases hud : RaisesUd i s
    · cases (hudFault hud).symm.trans h
      exact .inl ⟨rfl, hud⟩
    · cases hts : s.cr0.getLsbD 3 with
      | true =>
        cases (hnmFault hud hts).symm.trans h
        exact .inr (.inl ⟨rfl, hud, rfl⟩)
      | false =>
        obtain ⟨hfault, hrefused, hnext⟩ := hrun hud hts
        cases hread : s.readSource m (segOverride i) (has67 i) (operandSize i.enc i.op) i.len i.src with
        | next v =>
          obtain ⟨t, ht, -⟩ := hnext v hread
          cases ht.symm.trans h
        | refused r => cases (hrefused r hread).1.symm.trans h
        | fault g =>
          obtain ⟨hg, -, o, hsrc⟩ := hfault g hread
          cases hg.symm.trans h
          rw [hsrc, readSource_mem] at hread
          exact .inr (.inr ⟨o, ⟨hsrc, hm, hud, hts⟩, hread⟩)

/-- Past the segment check, a misaligned operand under alignment checking stops the form, unless a page fault is
reported instead (U8). -/
theorem exec_of_misaligned {i : Instr} {m : Mode} {s : State} {o : MemOperand} (h : ReachesOperand i m s o)
    (hseg : ¬ SegmentCheckFails i m s o) (halign : AlignmentCheckFails i m s o) :
    (exec i s = if operandBytesOf i = 16 then .refused .alignCheck16 else .fault .ac)
      ∨ ∃ f, s.pageFault m (operandLin i m s o) (operandBytesOf i) = some f ∧ exec i s = .fault f := by
  rw [← segmentBad_iff] at hseg
  rw [← misaligned_iff] at halign
  rw [exec_of_reachesOperand h, readMem_eq, if_neg hseg, ← operandLin]
  cases s.pageFault m (operandLin i m s o) (operandBytesOf i) with
  | none => exact .inl (by simp only [halign, if_true, andThen_alignStop])
  | some f =>
    cases hfree : Config.acBeforePf (operandLin i m s o) (operandBytesOf i) with
    | true => exact .inl (by simp only [halign, Bool.and_self, if_true, andThen_alignStop])
    | false => exact .inr ⟨f, rfl, by simp [halign, andThen]⟩

/-- Past the segment check, an operand that passes the alignment check stops the form by its page fault. -/
theorem exec_of_pageFault {i : Instr} {m : Mode} {s : State} {o : MemOperand} {f : Fault}
    (h : ReachesOperand i m s o) (hseg : ¬ SegmentCheckFails i m s o) (halign : ¬ AlignmentCheckFails i m s o)
    (hpage : s.pageFault m (operandLin i m s o) (operandBytesOf i) = some f) : exec i s = .fault f := by
  rw [← segmentBad_iff] at hseg
  rw [← misaligned_iff, Bool.not_eq_true] at halign
  rw [exec_of_reachesOperand h, readMem_eq, if_neg hseg, ← operandLin, hpage]
  simp [halign, andThen]

/-! ## The privilege level -/

/-- With paging off and CR0.AM clear, no check of a memory operand reads the privilege level. -/
theorem readMem_cpl {s : State} (hpaging : s.paging = false) (ham : s.cr0.getLsbD 18 = false) (c : BitVec 2)
    (m : Mode) (seg : SegReg) (ea : Addr) (n : Nat) :
    State.readMem { s with cpl := c } m seg ea n = s.readMem m seg ea n := by
  have hpage (lin : Addr) : State.pageFault { s with cpl := c } m lin n = s.pageFault m lin n :=
    (pageFault_of_not_paging (s := { s with cpl := c }) hpaging m lin n).trans
      (pageFault_of_not_paging hpaging m lin n).symm
  have halign (lin : Addr) : State.misaligned { s with cpl := c } lin n = s.misaligned lin n := by
    simp only [State.misaligned, State.acEnabled, ham, Bool.false_and]
  simp only [readMem_eq, hpage, halign]
  rfl

end Sys2Proof.Machine

namespace Sys2Proof.Proofs

open Sys2Proof.Machine Sys2Proof.Safety

/-- Settles O26: of the three origins of a fault, only the listed conditions answer `#UD`. -/
theorem invalidOpcodeExactlyWhenListed : Obligations.InvalidOpcodeExactlyWhenListed := by
  refine fun i s m hm => ⟨fun h => ?_, (behaves_exec hm).1⟩
  obtain ⟨_, -, ⟨-, hud⟩ | ⟨hnm, -⟩ | ⟨o, -, hread⟩⟩ := exec_fault h
  · exact hud
  · cases hnm
  · simpa [MemoryFault] using readMem_fault hread

/-- Settles O27: of the three origins of a fault, only a set CR0.TS answers `#NM`, and `#UD` comes before it. -/
theorem deviceNotAvailableExactlyWhenTaskSwitched : Obligations.DeviceNotAvailableExactlyWhenTaskSwitched := by
  intro i s m hm
  obtain ⟨-, hnmFault, -⟩ := behaves_exec (i := i) hm
  refine ⟨fun h => ?_, fun ⟨hud, hts⟩ => hnmFault hud hts⟩
  obtain ⟨_, -, ⟨hud, -⟩ | ⟨-, hnm⟩ | ⟨o, -, hread⟩⟩ := exec_fault h
  · cases hud
  · exact hnm
  · simpa [MemoryFault] using readMem_fault hread

/-- Settles O33: the privilege level is read by the page and alignment checks of a memory operand only. -/
theorem noFormIsPrivileged : Obligations.NoFormIsPrivileged := by
  intro i s c h
  refine exec_eq_mapNext (f := fun t => { t with cpl := c }) rfl (by cases i.enc <;> rfl) rfl
    (fun m ov z n len => ?_) rfl fun _ _ _ => rfl
  obtain ⟨j, hsrc⟩ | ⟨hpaging, ham⟩ := h
  · rw [hsrc]
    rfl
  · cases i.src with
    | reg j => rfl
    | mem o => exact readMem_cpl hpaging ham c m (segmentOf m ov o) (s.effectiveAddr m z len o) n

/-- Settles O40: the segment check is the first of a memory operand's checks. -/
theorem segmentFaultsAreStackOrGeneralProtection : Obligations.SegmentFaultsAreStackOrGeneralProtection := by
  intro i m s o h hseg
  rw [exec_of_reachesOperand h, readMem_eq, if_pos ((segmentBad_iff i m s o).2 hseg)]
  rfl

/-- Settles O41: the fault reported is a faulting byte's, with the code of its page. -/
theorem pageFaultsCarryTheirCode : Obligations.PageFaultsCarryTheirCode := by
  intro i m s o h hseg hpage halign
  obtain ⟨f, hf⟩ := Option.ne_none_iff_exists'.1 (mt (pageFault_eq_none_iff i m s o).1 (not_not_intro hpage))
  obtain ⟨a, code, ha, hcode, rfl⟩ := pageFault_some_byte hf
  obtain ⟨k, hk, rfl⟩ := mem_operandBytes.1 ha
  obtain ⟨hfaults, rfl⟩ := pageFaultCode_some hcode
  obtain ⟨hpresent, hwrite, huser, hreserved, hfetch, hsmall⟩ := pfCode_bits _ _ _
  exact ⟨k, _, hk, exec_of_pageFault h hseg halign hf, hfaults, hpresent, hwrite, huser, hreserved, hfetch, hsmall⟩

/-- Settles O42: past the segment check only a page fault can come before the alignment check. -/
theorem misalignedOperandsRaiseAlignmentCheck : Obligations.MisalignedOperandsRaiseAlignmentCheck := by
  intro i m s o h hseg halign
  obtain hstop | ⟨f, hf, hexec⟩ := exec_of_misaligned h hseg halign
  · exact ⟨fun _ => hstop, fun _ => .inl hstop⟩
  · refine ⟨fun hpage => ?_, fun _ => .inr ?_⟩
    · rw [(pageFault_eq_none_iff i m s o).2 hpage] at hf
      cases hf
    · obtain ⟨code, linear, rfl⟩ := pageFault_some hf
      exact ⟨code, linear, hexec⟩

/-- Settles O57: the origins of a fault, each with the fault it answers. -/
theorem faultsHaveTheirVectorAndErrorCode : Obligations.FaultsHaveTheirVectorAndErrorCode := by
  intro i s f h
  obtain ⟨m, hm, ⟨rfl, -⟩ | ⟨rfl, -⟩ | ⟨o, ⟨hsrc, -⟩, hread⟩⟩ := exec_fault h
  · exact .inl ⟨rfl, rfl, rfl⟩
  · exact .inr (.inl ⟨rfl, rfl, rfl⟩)
  · refine .inr (.inr ⟨o, m, hsrc, hm, ?_⟩)
    obtain rfl | ⟨code, linear, rfl⟩ | ⟨rfl, hsize⟩ := readMem_fault_cases hread
    · by_cases hss : operandSeg i m o = .ss
      · rw [hss]
        exact .inl ⟨rfl, rfl, rfl, rfl⟩
      · rw [segmentFault, if_neg hss]
        exact .inr (.inl ⟨rfl, rfl, rfl, hss⟩)
    · exact .inr (.inr (.inl ⟨code, linear, rfl, rfl, rfl⟩))
    · exact .inr (.inr (.inr ⟨rfl, rfl, rfl, hsize⟩))

end Sys2Proof.Proofs
end

section
/-!
PROOFS. The family of reset and runs: a step as the decoder's answer, the bytes the decoder is given, and a run's end
(70_reset_and_hazards.md R161, R163; 10_state.md R25).
-/

namespace Sys2Proof.Machine

open Sys2Proof.Safety

/-! ## Reset's control bits -/

/-- With CR4 zero neither OSFXSR nor OSXSAVE is set, so the gate of every encoding is closed (R161, R131). -/
theorem gateUd_of_cr4_eq_zero {s : State} (h : s.cr4 = 0#64) (e : Enc) : s.gateUd e = true := by
  have hsse : s.osSse = false := by simp [State.osSse, h]
  have havx : s.osAvx = false := by simp [State.osAvx, h]
  cases e <;> simp [State.gateUd, hsse, havx]

/-! ## The mode -/

/-- What a form leaves unchanged includes the mode. -/
theorem mode_of_sameButVectorsAndPc {s t : State} (h : SameButVectorsAndPc s t) : t.mode? = s.mode? := by
  simp only [SameButVectorsAndPc] at h
  simp only [State.mode?, h]

/-! ## Addresses within the mode's width -/

theorem wrapAddr_toNat (m : Mode) (a : Addr) : (wrapAddr m a).toNat = a.toNat % 2 ^ linearBits m := by
  cases m with
  | mode64 => exact (Nat.mod_eq_of_lt a.isLt).symm
  | mode32 =>
    simp only [wrapAddr, linearBits, BitVec.toNat_setWidth]
    omega

/-- `pc` after an instruction is within the mode's width already. -/
theorem wrapAddr_nextPc (m : Mode) (pc : Addr) (len : Nat) : wrapAddr m (nextPc m pc len) = nextPc m pc len :=
  BitVec.eq_of_toNat_eq (by rw [wrapAddr_toNat, nextPc_toNat, Nat.mod_mod])

/-- A length below the address space's size leads to another address. -/
theorem wrapAddr_ne_nextPc {m : Mode} {len : Nat} (hpos : 0 < len) (hlt : len < 2 ^ linearBits m) (pc : Addr) :
    wrapAddr m pc ≠ nextPc m pc len := by
  intro h
  have hnat := congrArg BitVec.toNat h
  rw [wrapAddr_toNat, nextPc_toNat] at hnat
  have hdvd : 2 ^ linearBits m ∣ len := Nat.add_modEq_left_iff.1 hnat.symm
  exact absurd (Nat.le_of_dvd hpos hdvd) hlt.not_ge

/-- R25's wrap in numbers. -/
theorem wrapsPastTop_iff (m : Mode) (pc : Addr) (len : Nat) :
    wrapsPastTop m pc len = true ↔ 2 ^ linearBits m < pc.toNat % 2 ^ linearBits m + len := by
  cases m with
  | mode64 => simp only [wrapsPastTop, linearBits, Nat.mod_eq_of_lt pc.isLt, decide_eq_true_eq]
  | mode32 => simp only [wrapsPastTop, linearBits, BitVec.toNat_setWidth, decide_eq_true_eq]

theorem wrapsPastTop_eq_false_iff (m : Mode) (pc : Addr) (len : Nat) :
    wrapsPastTop m pc len = false ↔ pc.toNat % 2 ^ linearBits m + len ≤ 2 ^ linearBits m := by
  rw [Bool.eq_false_iff, ne_eq, wrapsPastTop_iff, Nat.not_lt]

/-! ## The bytes the decoder is given (R60) -/

/-- Fewer bytes from the same address are the first of them. -/
theorem fetchBytes_take (mem : Memory) (m : Mode) (a : Addr) {k n : Nat} (h : k ≤ n) :
    (fetchBytes mem m a n).take k = fetchBytes mem m a k := by
  induction k generalizing a n with
  | zero => rfl
  | succ k ih =>
    obtain ⟨n, rfl⟩ := Nat.exists_eq_add_of_le' (Nat.zero_lt_of_lt h)
    simp only [fetchBytes]
    cases mem.read (wrapAddr m a).toNat with
    | none => rfl
    | some b => rw [List.take_succ_cons, ih _ (Nat.le_of_succ_le_succ h)]

/-- Bytes loaded at `pc`, as many as the longest instruction or fewer, stand first in what the decoder is given. -/
theorem fetch_of_loaded {m : Mode} {s : State} {bs : List Byte} (h : (Program.mk s.pc bs).loaded m s = true)
    (hlen : bs.length ≤ Config.maxInstrLen) : ∃ rest, s.fetch m = bs ++ rest := by
  have hbytes : fetchBytes s.mem m s.pc bs.length = bs := by simpa [Program.loaded] using h
  have htake : (s.fetch m).take bs.length = bs := (fetchBytes_take s.mem m s.pc hlen).trans hbytes
  exact ⟨_, (htake ▸ List.take_append_drop bs.length (s.fetch m)).symm⟩

/-! ## A step as the decoder's answer (R163) -/

theorem step_of_wraps {s : State} {m : Mode} {i : Instr} {rest : List Byte} (hm : s.mode? = some m)
    (hd : decode m (s.fetch m) = .insn i rest) (hw : wrapsPastTop m s.pc i.len = true) :
    step s = .refused .fetchWraps := by
  simp only [step, hm, hd, hw, if_true]

theorem step_of_decode_refused {s : State} {m : Mode} {r : DecodeRefusal} (hm : s.mode? = some m)
    (hd : decode m (s.fetch m) = .refused r) : step s = .refused (.decoder r) := by
  simp only [step, hm, hd]

theorem step_of_decode_notInScope {s : State} {m : Mode} (hm : s.mode? = some m)
    (hd : decode m (s.fetch m) = .notInScope) : step s = .refused .notInScope := by
  simp only [step, hm, hd]

/-! ## The length of the encoding of a well-formed instruction (R78) -/

theorem encode_length {m : Mode} {i : Instr} (h : i.wellFormed m = true) :
    (encode i).length = i.len ∧ 5 ≤ i.len ∧ i.len ≤ 15 := by
  obtain ⟨hlength, hmin, hmax, -⟩ := Proofs.decodeConsumesTheLength m _ i [] (decode_encode h [])
  exact ⟨by simpa using hlength, hmin, hmax⟩

/-- A step from a loaded encoding that does not wrap executes the instruction. -/
theorem step_of_loaded_encode {s : State} {m : Mode} {i : Instr} (hm : s.mode? = some m)
    (hwf : i.wellFormed m = true) (hloaded : (Program.mk s.pc (encode i)).loaded m s = true)
    (hfits : s.pc.toNat % 2 ^ linearBits m + i.len ≤ 2 ^ linearBits m) : step s = exec i s := by
  obtain ⟨hlength, -, hmax⟩ := encode_length hwf
  obtain ⟨rest, hfetch⟩ := fetch_of_loaded hloaded (hlength.trans_le hmax)
  have hd : decode m (s.fetch m) = .insn i rest := by rw [hfetch, decode_encode hwf]
  exact step_of_decode hm hd ((wrapsPastTop_eq_false_iff ..).2 hfits)

/-! ## The end of a run (R163, D19) -/

/-- A run that has reached its end has ended, however many steps it is given. -/
theorem run_of_atEnd {g : Program} {s : State} (h : g.atEnd s = true) (k : Nat) : g.run k s = .ended s := by
  cases k <;> simp only [Program.run, h, if_true]

theorem run_succ_of_next {g : Program} {s t : State} (h : g.atEnd s = false) (hs : step s = .next t) (k : Nat) :
    g.run (k + 1) s = g.run k t := by
  simp only [Program.run, h, hs, Bool.false_eq_true, if_false]

theorem atEnd_iff {g : Program} {s : State} {m : Mode} (hm : s.mode? = some m) :
    g.atEnd s = true ↔ wrapAddr m s.pc = nextPc m g.base g.bytes.length := by
  simp only [Program.atEnd, hm, beq_iff_eq]

end Sys2Proof.Machine

namespace Sys2Proof.Proofs

open Sys2Proof.Machine Sys2Proof.Safety

/-- Settles O54: reset's CR4 closes the gate of every encoding. -/
theorem resetEnablesRaiseInvalidOpcode : Obligations.ResetEnablesRaiseInvalidOpcode := by
  refine fun i s hcr4 => ⟨fun m hm => ?_, fun hm => exec_of_mode_none hm i⟩
  have hud : RaisesUd i s := (raisesUd_iff i s).2 (by rw [gateUd_of_cr4_eq_zero hcr4, Bool.or_true])
  exact (behaves_exec hm).1 hud

/-- Settles O58: the first step executes the form, whose length leads from a `pc` short of the end to the end. -/
theorem aRunOfOneFormEndsAtItsEnd : Obligations.ARunOfOneFormEndsAtItsEnd := by
  intro i s m j k hm hwf hsrc hud hts hloaded hfits
  obtain ⟨hlength, hmin, hmax⟩ := encode_length hwf
  obtain ⟨t, hexec, ⟨-, hframe⟩, hpc, -⟩ := registerSourcesComplete i s m j hsrc hm hud hts
  have hstep : step s = .next t := (step_of_loaded_encode hm hwf hloaded hfits).trans hexec
  have hmode : t.mode? = some m := (mode_of_sameButVectorsAndPc hframe).trans hm
  have hshort : i.len < 2 ^ linearBits m := hmax.trans_lt (by cases m <;> decide)
  have hstart : (Program.mk s.pc (encode i)).atEnd s = false := by
    rw [Bool.eq_false_iff, ne_eq, atEnd_iff hm, hlength]
    exact wrapAddr_ne_nextPc (by omega) hshort s.pc
  have hend : (Program.mk s.pc (encode i)).atEnd t = true := by
    rw [atEnd_iff hmode, hpc, hlength, wrapAddr_nextPc]
  exact ⟨t, hexec, by rw [run_succ_of_next hstart hstep, run_of_atEnd hend]⟩

/-- Settles O50: the step's branches, with R25's wrap in numbers. -/
theorem stepRunsTheDecodedInstruction : Obligations.StepRunsTheDecodedInstruction := by
  intro s m hm
  refine ⟨fun i rest hd => ⟨fun hfits => ?_, fun hwraps => ?_⟩, fun r => step_of_decode_refused hm,
    step_of_decode_notInScope hm⟩
  · exact step_of_decode hm hd ((wrapsPastTop_eq_false_iff ..).2 hfits)
  · exact step_of_wraps hm hd ((wrapsPastTop_iff ..).2 hwraps)

end Sys2Proof.Proofs
end

section
/-!
PROOFS. The words of 95_test_vectors.md section 3 as the encoder's own, and the three encodings of one operation
compared (41_vpmovsx_vex128.md, 42_vpmovsx_vex256.md, their paragraphs on the relation).
-/

namespace Sys2Proof

/-- The bytes the encoder gives a well-formed instruction, and nothing after them, decode to it. -/
theorem decode_of_encode_eq {m : Mode} {i : Instr} {bs : List Byte} (hwf : i.wellFormed m = true := by decide)
    (hbs : encode i = bs := by decide) : decode m bs = .insn i [] := by
  rw [← hbs, ← List.append_nil (encode i)]
  exact Proofs.decodeOfEncodeIsTheInstruction m i [] hwf

end Sys2Proof

namespace Sys2Proof.Machine

open Sys2Proof.Safety

/-! ## The low half of a result -/

/-- Values with the same elements have the same low bits. -/
theorem setWidth_eq_of_elements {n k w : Nat} {r r' : BitVec w}
    (h : ∀ i, i < k → element n i r = element n i r') : r.setWidth (n * k) = r'.setWidth (n * k) := by
  refine BitVec.eq_of_getLsbD_eq fun j hj => ?_
  have hn : 0 < n := Nat.pos_of_mul_pos_right (Nat.zero_lt_of_lt hj)
  have hbit := congrArg (·.getLsbD (j % n)) (h (j / n) (Nat.div_lt_of_lt_mul hj))
  simpa [element, Nat.mod_lt _ hn, Nat.div_add_mod, hj] using hbit

/-- The source elements of one helper call are the bits a legacy form reads (R43). -/
theorem legacyBits_eq (o : Op) : 8 * operandSize .legacy o = sourceWidth o * callElements o := by
  cases o <;> rfl

/-- A 256-bit result has at least the elements of one helper call. -/
theorem callElements_le (o : Op) : callElements o ≤ elementBits .vex256 / destWidth o := by
  cases o <;> decide

/-- Results that hold the extended elements of sources which agree on the bits a legacy form reads have the same low
half. -/
theorem low_eq_of_extends {o : Op} {v w : Xmm} {r r' : Ymm}
    (hr : Extends (sourceWidth o) (destWidth o) (callElements o) v r)
    (hr' : Extends (sourceWidth o) (destWidth o) (callElements o) w r')
    (h : ∀ b, b < 8 * operandSize .legacy o → w.getLsbD b = v.getLsbD b) : r.setWidth 128 = r'.setWidth 128 := by
  rw [← destWidth_mul_callElements o]
  refine setWidth_eq_of_elements fun i hi => ?_
  have hsource : element (sourceWidth o) i w = element (sourceWidth o) i v :=
    extractLsb'_congr fun b hb => h b <| by
      rw [legacyBits_eq]
      exact hb.trans_le (Nat.mul_le_mul_left (sourceWidth o) hi)
  rw [hr i hi, hr' i hi, hsource]

/-- A form that completed has done what its rule says of the source's value. -/
theorem behaves_next {out : Host.Outcome State Fault Refusal} {ud : Prop} {src : Source}
    {read : Host.Outcome Xmm Fault Refusal} {s t : State} {P : Xmm → State → Prop} {v : Xmm}
    (h : Behaves out ud src read s P) (hread : read = .next v) (hout : out = .next t) : P v t := by
  obtain ⟨hud, hnm, hrun⟩ := h
  have hnud : ¬ ud := fun hu => nomatch hout.symm.trans (hud hu)
  have hts : s.cr0.getLsbD 3 = false := Bool.eq_false_iff.2 fun hts => nomatch hout.symm.trans (hnm hnud hts)
  obtain ⟨-, -, hnext⟩ := hrun hnud hts
  obtain ⟨t', ht', hP⟩ := hnext v hread
  cases ht'.symm.trans hout
  exact hP

end Sys2Proof.Machine

namespace Sys2Proof.Proofs

open Sys2Proof.Machine Sys2Proof.Safety

/-- Settles O47: by the rules of the three encodings the low half holds the extended elements of one helper call, and
the source values agree on those. -/
theorem theThreeEncodingsAgreeOnTheLowHalf : Obligations.TheThreeEncodingsAgreeOnTheLowHalf := by
  intro o p q r f g dst src1 src2 src3 s t1 t2 t3 m v w hm hread1 hread2 hread3 hvw hexec1 hexec2 hexec3
  obtain ⟨hlegacy, hkept, -⟩ := behaves_next ((legacyRule o).2 p dst src1 s m hm) hread1 hexec1
  obtain ⟨⟨h128, hzero⟩, -⟩ := behaves_next ((vex128Rule o).2 q f dst src2 s m hm) hread2 hexec2
  obtain ⟨h256, -⟩ := behaves_next ((vex256Rule o).2 r g dst src3 s m hm) hread3 hexec3
  exact ⟨low_eq_of_extends hlegacy h128 fun _ _ => rfl,
    low_eq_of_extends h128 (fun i hi => h256 i (hi.trans_le (callElements_le o))) hvw, hkept, hzero⟩

/-- Settles O22: the words are the encoder's own, but for the second, which sets the `VEX.W` that is ignored. -/
theorem writtenOutWordsDecode : Obligations.WrittenOutWordsDecode := by
  have hW := widthBitsAreIgnored.1 .mode64 [] 0xE2#8 0x79#8 [0x20#8, 0xCA#8] (by simp)
  exact ⟨decode_of_encode_eq, hW.trans decode_of_encode_eq, decode_of_encode_eq, decode_of_encode_eq,
    decode_of_encode_eq, decode_of_encode_eq⟩

end Sys2Proof.Proofs
end
